-- ==== Sys2Proof/Word.lean ====
section
/-! DEFINITION. The word types of the core and the named index types (10_state.md, 00_scope.md R5, R8). -/

namespace Sys2Proof

/-- A general register, a timer or a memory cell: an unsigned 8-bit value (R8, R20, R60). -/
abbrev Byte := BitVec 8

/-- The program counter, the index register, a stack entry or an instruction word: 16 bits (R24, R27, R28, R90). -/
abbrev Word := BitVec 16

/-- The 12-bit address operand `NNN` (R91, R93). -/
abbrev Addr12 := BitVec 12

/-- A general register's number, the value of a field `X` or `Y` (R20, R93). -/
abbrev Reg := Fin 16

/-- A key's index, 0x0 to 0xF (R32). -/
abbrev Key := Fin 16

/-- The framebuffer: 32 rows of 64 pixels, row 0 at the top, bit `x` of a row its pixel in column `x` (R33). -/
abbrev Frame := Vector (BitVec 64) 32

end Sys2Proof
end

