-- ==== Sys2Proof/Syntax.lean ====
section
/-! DEFINITION. The instructions: one constructor per row of the opcode map (30_encoding.md R94), with its operands as R93
assembles them. -/

namespace Sys2Proof

/-- An instruction with its operands. A register field is its number, `NN` a byte, `NNN` a 12-bit address, and the `N` of
`DXYN` a row count (R91, R93). Every value of an operand's type is one the encoding admits (R105), so no term of this type
is ill-formed; what can be ill-formed is an instruction WORD (WellFormed.lean). -/
inductive Instr where
  /-- `00E0` -/
  | cls
  /-- `00EE` -/
  | ret
  /-- `1NNN` -/
  | jp (nnn : Addr12)
  /-- `2NNN` -/
  | call (nnn : Addr12)
  /-- `3XNN` -/
  | seImm (x : Reg) (nn : Byte)
  /-- `4XNN` -/
  | sneImm (x : Reg) (nn : Byte)
  /-- `5XY0` -/
  | seReg (x y : Reg)
  /-- `6XNN` -/
  | ldImm (x : Reg) (nn : Byte)
  /-- `7XNN` -/
  | addImm (x : Reg) (nn : Byte)
  /-- `8XY0` -/
  | ldReg (x y : Reg)
  /-- `8XY1` -/
  | orReg (x y : Reg)
  /-- `8XY2` -/
  | andReg (x y : Reg)
  /-- `8XY3` -/
  | xorReg (x y : Reg)
  /-- `8XY4` -/
  | addReg (x y : Reg)
  /-- `8XY5` -/
  | sub (x y : Reg)
  /-- `8XY6` -/
  | shr (x y : Reg)
  /-- `8XY7` -/
  | subn (x y : Reg)
  /-- `8XYE` -/
  | shl (x y : Reg)
  /-- `9XY0` -/
  | sneReg (x y : Reg)
  /-- `ANNN` -/
  | ldI (nnn : Addr12)
  /-- `BNNN` -/
  | jpV0 (nnn : Addr12)
  /-- `CXNN` -/
  | rnd (x : Reg) (nn : Byte)
  /-- `DXYN` -/
  | drw (x y : Reg) (n : Fin 16)
  /-- `EX9E` -/
  | skp (x : Reg)
  /-- `EXA1` -/
  | sknp (x : Reg)
  /-- `FX07` -/
  | ldVxDt (x : Reg)
  /-- `FX0A` -/
  | ldVxK (x : Reg)
  /-- `FX15` -/
  | ldDtVx (x : Reg)
  /-- `FX18` -/
  | ldStVx (x : Reg)
  /-- `FX1E` -/
  | addIVx (x : Reg)
  /-- `FX29` -/
  | ldFVx (x : Reg)
  /-- `FX33` -/
  | ldBVx (x : Reg)
  /-- `FX55` -/
  | ldMemVx (x : Reg)
  /-- `FX65` -/
  | ldVxMem (x : Reg)
  deriving DecidableEq, Repr

end Sys2Proof
end

