-- ==== Sys2Proof/Decode.lean ====
section
/-! DEFINITION. The decoder (30_encoding.md R91, R95), total on every word and rejecting by name; the encoder, from the same
encodings (R92, R94); and the opcode map as data (R94). -/

namespace Sys2Proof

/-- Why the decoder rejects: the rule of 30_encoding.md that makes the word invalid. -/
inductive InvalidWord where
  /-- A word of family 0 other than `00E0` and `00EE` (R101). -/
  | family0
  /-- `5XYn` or `9XYn` with `n` not 0 (R102). -/
  | skipNibble
  /-- `8XYn` with `n` in 8 to D, or F (R103). -/
  | aluNibble
  /-- `EXnn` with `nn` neither 9E nor A1 (R104). -/
  | keyByte
  /-- `FXnn` with `nn` none of the nine listed (R104). -/
  | miscByte
  /-- Fewer than two bytes to read; a fetch never gives this (R62, R90). -/
  | tooShort
  deriving DecidableEq, Repr

/-! ### Fields (R91) -/

/-- `op = w[15:12]`. -/
def opField (w : Word) : BitVec 4 := w.extractLsb' 12 4
/-- `X = w[11:8]`. -/
def xField (w : Word) : Reg := (w.extractLsb' 8 4).toFin
/-- `Y = w[7:4]`. -/
def yField (w : Word) : Reg := (w.extractLsb' 4 4).toFin
/-- `N = w[3:0]`, as a row count. -/
def nField (w : Word) : Fin 16 := (w.extractLsb' 0 4).toFin
/-- `NN = w[7:0]`. -/
def nnField (w : Word) : Byte := w.extractLsb' 0 8
/-- `NNN = w[11:0]`. -/
def nnnField (w : Word) : Addr12 := w.extractLsb' 0 12

/-! ### The decoder (R95) -/

/-- Family 8: the low nibble selects the operation (R95, R103). -/
def decodeAlu (w : Word) : Except InvalidWord Instr :=
  let x := xField w
  let y := yField w
  match (nField w).val with
  | 0x0 => .ok (.ldReg x y)
  | 0x1 => .ok (.orReg x y)
  | 0x2 => .ok (.andReg x y)
  | 0x3 => .ok (.xorReg x y)
  | 0x4 => .ok (.addReg x y)
  | 0x5 => .ok (.sub x y)
  | 0x6 => .ok (.shr x y)
  | 0x7 => .ok (.subn x y)
  | 0xE => .ok (.shl x y)
  | _ => .error .aluNibble

/-- Family E: the low byte selects the key test (R95, R104). -/
def decodeKey (w : Word) : Except InvalidWord Instr :=
  match (nnField w).toNat with
  | 0x9E => .ok (.skp (xField w))
  | 0xA1 => .ok (.sknp (xField w))
  | _ => .error .keyByte

/-- Family F: the low byte selects the operation (R95, R104). -/
def decodeMisc (w : Word) : Except InvalidWord Instr :=
  let x := xField w
  match (nnField w).toNat with
  | 0x07 => .ok (.ldVxDt x)
  | 0x0A => .ok (.ldVxK x)
  | 0x15 => .ok (.ldDtVx x)
  | 0x18 => .ok (.ldStVx x)
  | 0x1E => .ok (.addIVx x)
  | 0x29 => .ok (.ldFVx x)
  | 0x33 => .ok (.ldBVx x)
  | 0x55 => .ok (.ldMemVx x)
  | 0x65 => .ok (.ldVxMem x)
  | _ => .error .miscByte

/-- From every 16-bit word to an instruction, or the name of why it is invalid (R95). -/
def decode (w : Word) : Except InvalidWord Instr :=
  match (opField w).toNat with
  | 0x0 =>
    if w = 0x00E0#16 then .ok .cls
    else if w = 0x00EE#16 then .ok .ret
    else .error .family0
  | 0x1 => .ok (.jp (nnnField w))
  | 0x2 => .ok (.call (nnnField w))
  | 0x3 => .ok (.seImm (xField w) (nnField w))
  | 0x4 => .ok (.sneImm (xField w) (nnField w))
  | 0x5 => if nField w = 0 then .ok (.seReg (xField w) (yField w)) else .error .skipNibble
  | 0x6 => .ok (.ldImm (xField w) (nnField w))
  | 0x7 => .ok (.addImm (xField w) (nnField w))
  | 0x8 => decodeAlu w
  | 0x9 => if nField w = 0 then .ok (.sneReg (xField w) (yField w)) else .error .skipNibble
  | 0xA => .ok (.ldI (nnnField w))
  | 0xB => .ok (.jpV0 (nnnField w))
  | 0xC => .ok (.rnd (xField w) (nnField w))
  | 0xD => .ok (.drw (xField w) (yField w) (nField w))
  | 0xE => decodeKey w
  | _ => decodeMisc w

/-- The two bytes of a word as memory holds them, the more significant first (R62, R63). -/
def bytesOfWord (w : Word) : List Byte := [w.extractLsb' 8 8, w.extractLsb' 0 8]

/-- Decode the instruction at the head of a list of bytes, and give the bytes after it (R62, R90). -/
def decodeBytes : List Byte → Except InvalidWord (Instr × List Byte)
  | hi :: lo :: rest => (decode (hi ++ lo)).map fun i => (i, rest)
  | _ => .error .tooShort

/-- What the decoder reads from a table word of `nbits` bits, laid out as memory holds it. -/
def decodeTableWord (nbits w : Nat) : Option Instr :=
  match decodeBytes (bytesOfWord (BitVec.ofNat 16 (w % 2 ^ nbits))) with
  | .ok (i, _) => some i
  | .error _ => none

/-! ### The encoder (R92, R94) -/

/-- Format A: `op[15:12] NNN[11:0]` (R92). -/
def formatA (op : BitVec 4) (nnn : Addr12) : Word := op ++ nnn

/-- Formats XI and XF: `op[15:12] X[11:8] NN[7:0]` (R92). -/
def formatXI (op : BitVec 4) (x : Reg) (nn : Byte) : Word := op ++ (BitVec.ofFin x : BitVec 4) ++ nn

/-- Formats XYF and XYN: `op[15:12] X[11:8] Y[7:4] N[3:0]` (R92). -/
def formatXYN (op : BitVec 4) (x y : Reg) (n : Fin 16) : Word :=
  op ++ (BitVec.ofFin x : BitVec 4) ++ (BitVec.ofFin y : BitVec 4) ++ (BitVec.ofFin n : BitVec 4)

/-- The word of an instruction (R92, R94). -/
def encode : Instr → Word
  | .cls => 0x00E0#16
  | .ret => 0x00EE#16
  | .jp nnn => formatA 0x1#4 nnn
  | .call nnn => formatA 0x2#4 nnn
  | .seImm x nn => formatXI 0x3#4 x nn
  | .sneImm x nn => formatXI 0x4#4 x nn
  | .seReg x y => formatXYN 0x5#4 x y 0x0
  | .ldImm x nn => formatXI 0x6#4 x nn
  | .addImm x nn => formatXI 0x7#4 x nn
  | .ldReg x y => formatXYN 0x8#4 x y 0x0
  | .orReg x y => formatXYN 0x8#4 x y 0x1
  | .andReg x y => formatXYN 0x8#4 x y 0x2
  | .xorReg x y => formatXYN 0x8#4 x y 0x3
  | .addReg x y => formatXYN 0x8#4 x y 0x4
  | .sub x y => formatXYN 0x8#4 x y 0x5
  | .shr x y => formatXYN 0x8#4 x y 0x6
  | .subn x y => formatXYN 0x8#4 x y 0x7
  | .shl x y => formatXYN 0x8#4 x y 0xE
  | .sneReg x y => formatXYN 0x9#4 x y 0x0
  | .ldI nnn => formatA 0xA#4 nnn
  | .jpV0 nnn => formatA 0xB#4 nnn
  | .rnd x nn => formatXI 0xC#4 x nn
  | .drw x y n => formatXYN 0xD#4 x y n
  | .skp x => formatXI 0xE#4 x 0x9E#8
  | .sknp x => formatXI 0xE#4 x 0xA1#8
  | .ldVxDt x => formatXI 0xF#4 x 0x07#8
  | .ldVxK x => formatXI 0xF#4 x 0x0A#8
  | .ldDtVx x => formatXI 0xF#4 x 0x15#8
  | .ldStVx x => formatXI 0xF#4 x 0x18#8
  | .addIVx x => formatXI 0xF#4 x 0x1E#8
  | .ldFVx x => formatXI 0xF#4 x 0x29#8
  | .ldBVx x => formatXI 0xF#4 x 0x33#8
  | .ldMemVx x => formatXI 0xF#4 x 0x55#8
  | .ldVxMem x => formatXI 0xF#4 x 0x65#8

/-! ### The opcode map as data (R94) -/

/-- A row of the opcode map: a word `w` is the row's instruction exactly when `w &&& mask = pattern` (R94). -/
structure OpcodeRow where
  mnemonic : String
  pattern : Word
  mask : Word
  deriving DecidableEq, Repr

/-- The word is the row's instruction (R94). -/
def OpcodeRow.covers (r : OpcodeRow) (w : Word) : Bool := w &&& r.mask == r.pattern

/-- The row of the opcode map an instruction belongs to (R94). -/
def rowOf : Instr → OpcodeRow
  | .cls => ⟨"CLS", 0x00E0, 0xFFFF⟩
  | .ret => ⟨"RET", 0x00EE, 0xFFFF⟩
  | .jp _ => ⟨"JP", 0x1000, 0xF000⟩
  | .call _ => ⟨"CALL", 0x2000, 0xF000⟩
  | .seImm _ _ => ⟨"SE_IMM", 0x3000, 0xF000⟩
  | .sneImm _ _ => ⟨"SNE_IMM", 0x4000, 0xF000⟩
  | .seReg _ _ => ⟨"SE_REG", 0x5000, 0xF00F⟩
  | .ldImm _ _ => ⟨"LD_IMM", 0x6000, 0xF000⟩
  | .addImm _ _ => ⟨"ADD_IMM", 0x7000, 0xF000⟩
  | .ldReg _ _ => ⟨"LD_REG", 0x8000, 0xF00F⟩
  | .orReg _ _ => ⟨"OR", 0x8001, 0xF00F⟩
  | .andReg _ _ => ⟨"AND", 0x8002, 0xF00F⟩
  | .xorReg _ _ => ⟨"XOR", 0x8003, 0xF00F⟩
  | .addReg _ _ => ⟨"ADD_REG", 0x8004, 0xF00F⟩
  | .sub _ _ => ⟨"SUB", 0x8005, 0xF00F⟩
  | .shr _ _ => ⟨"SHR", 0x8006, 0xF00F⟩
  | .subn _ _ => ⟨"SUBN", 0x8007, 0xF00F⟩
  | .shl _ _ => ⟨"SHL", 0x800E, 0xF00F⟩
  | .sneReg _ _ => ⟨"SNE_REG", 0x9000, 0xF00F⟩
  | .ldI _ => ⟨"LD_I", 0xA000, 0xF000⟩
  | .jpV0 _ => ⟨"JP_V0", 0xB000, 0xF000⟩
  | .rnd _ _ => ⟨"RND", 0xC000, 0xF000⟩
  | .drw _ _ _ => ⟨"DRW", 0xD000, 0xF000⟩
  | .skp _ => ⟨"SKP", 0xE09E, 0xF0FF⟩
  | .sknp _ => ⟨"SKNP", 0xE0A1, 0xF0FF⟩
  | .ldVxDt _ => ⟨"LD_VX_DT", 0xF007, 0xF0FF⟩
  | .ldVxK _ => ⟨"LD_VX_K", 0xF00A, 0xF0FF⟩
  | .ldDtVx _ => ⟨"LD_DT_VX", 0xF015, 0xF0FF⟩
  | .ldStVx _ => ⟨"LD_ST_VX", 0xF018, 0xF0FF⟩
  | .addIVx _ => ⟨"ADD_I_VX", 0xF01E, 0xF0FF⟩
  | .ldFVx _ => ⟨"LD_F_VX", 0xF029, 0xF0FF⟩
  | .ldBVx _ => ⟨"LD_B_VX", 0xF033, 0xF0FF⟩
  | .ldMemVx _ => ⟨"LD_MEM_VX", 0xF055, 0xF0FF⟩
  | .ldVxMem _ => ⟨"LD_VX_MEM", 0xF065, 0xF0FF⟩

/-- One instruction of each row, its operands zero. -/
def rowSamples : List Instr :=
  List.flatten
    [[.cls, .ret, .jp 0, .call 0, .seImm 0 0, .sneImm 0 0, .seReg 0 0, .ldImm 0 0, .addImm 0 0],
      [.ldReg 0 0, .orReg 0 0, .andReg 0 0, .xorReg 0 0, .addReg 0 0, .sub 0 0, .shr 0 0, .subn 0 0, .shl 0 0],
      [.sneReg 0 0, .ldI 0, .jpV0 0, .rnd 0 0, .drw 0 0 0, .skp 0, .sknp 0, .ldVxDt 0, .ldVxK 0],
      [.ldDtVx 0, .ldStVx 0, .addIVx 0, .ldFVx 0, .ldBVx 0, .ldMemVx 0, .ldVxMem 0]]

/-- The opcode map: its 34 rows (R94). -/
def opcodeTable : List OpcodeRow := rowSamples.map rowOf

end Sys2Proof
end

