-- ==== Sys2Proof/Config.lean ====
section
/-! DEFINITION. The parameters of the core (00_scope.md R5, R6): the fontset, the random draws and the fixed sizes. -/

namespace Sys2Proof.Config

/-- The number of memory cells (R5, R60). -/
def memorySize : Nat := 4096

/-- The reset value of the program counter and the address LOAD writes to (R5). -/
def programBase : Word := 0x200#16

/-- The longest program LOAD accepts, in bytes (R5, R291). -/
def maxProgram : Nat := 3584

/-- The bytes of the conventional fontset, five a glyph, top row first (R45). PRESUMED (the spec supplies it from general
knowledge, D29), log entry 4: unsafe for a claim that depends on a glyph's pixels. -/
def fontBytes : List Byte :=
  [0xF0, 0x90, 0x90, 0x90, 0xF0] ++ [0x20, 0x60, 0x20, 0x20, 0x70] ++
  [0xF0, 0x10, 0xF0, 0x80, 0xF0] ++ [0xF0, 0x10, 0xF0, 0x10, 0xF0] ++
  [0x90, 0x90, 0xF0, 0x10, 0x10] ++ [0xF0, 0x80, 0xF0, 0x10, 0xF0] ++
  [0xF0, 0x80, 0xF0, 0x90, 0xF0] ++ [0xF0, 0x10, 0x20, 0x40, 0x40] ++
  [0xF0, 0x90, 0xF0, 0x90, 0xF0] ++ [0xF0, 0x90, 0xF0, 0x10, 0xF0] ++
  [0xF0, 0x90, 0xF0, 0x90, 0x90] ++ [0xE0, 0x90, 0xE0, 0x90, 0xE0] ++
  [0xF0, 0x80, 0x80, 0x80, 0xF0] ++ [0xE0, 0x90, 0x90, 0x90, 0xE0] ++
  [0xF0, 0x80, 0xF0, 0x80, 0xF0] ++ [0xF0, 0x80, 0xF0, 0x80, 0x80]

/-- The default value of the parameter `FONT`, 80 bytes (R6, R45). The parameter itself is
`Machine.State.font`, which RESET reads; this is the value it has in `Machine.State.reset`. -/
def defaultFont : Vector Byte 80 := ⟨fontBytes.toArray, rfl⟩

/-- The random byte that the `n`-th executed `CXNN` draws (R6, R181, D30). FREE VALUE, log entry 2: nothing constrains it;
a claim about it holds for every sequence of draws. -/
opaque rnd : Nat → Byte

end Sys2Proof.Config
end

