-- ==== Sys2Proof/Machine/State.lean ====
section
/-! DEFINITION. The state of the core (10_state.md), the reasons a step could stop, and the state after RESET (R44). -/

namespace Sys2Proof.Machine

/-- The memory array, sparse: the cells that differ from what an unlisted address reads as (`Memory.unlisted`), by strictly
rising address (20_memory.md R60). `Memory.wf` says the form holds. -/
abbrev Memory := List Host.Cell

/-- The run mode (R36). -/
inductive Mode where
  /-- STEP executes one instruction. -/
  | running
  /-- STEP polls the edge latch; the key's index will be written to `V[x]`. -/
  | awaitingKey (x : Reg)
  /-- STEP does nothing; only RESET leaves this mode (R126). -/
  | halted
  deriving DecidableEq, Repr

/-- The code of a fault record (R37, R260). -/
inductive FaultCode where
  | none
  | invalidOpcode
  | stackOverflow
  | stackUnderflow
  deriving DecidableEq, Repr

/-- The fault record `FAULT` (R37). -/
structure FaultRecord where
  code : FaultCode
  opcode : Word
  faultPc : Word
  deriving DecidableEq, Repr

/-- The record that holds no fault: code 0, opcode 0, fault_pc 0 (R37, R44). -/
def FaultRecord.clear : FaultRecord := ⟨.none, 0, 0⟩

/-- One request at the core's ports for one of its six operations (40_cycle.md R120, R121). -/
inductive Request where
  | reset
  | load (bytes : List Byte)
  | step
  | tick
  | key (k : Key) (pressed : Bool)
  | ack
  deriving DecidableEq, Repr

/-- The state of the core: everything 10_state.md gives it, and after that four fields of the model's own
(log entries 1 to 3 and 14). -/
structure State where
  /-- `MEM[0x000..0xFFF]` (R60). -/
  mem : Memory
  /-- `V[0]` to `V[15]`; `V[15]` is VF (R20, R21). -/
  v : Vector Byte 16
  /-- The index register `I` (R27). -/
  index : Word
  /-- The program counter (R24). -/
  pc : Word
  /-- `STACK[0]` to `STACK[15]` (R28). -/
  stack : Vector Word 16
  /-- `SP`, the number of valid entries, 0 to 16 (R29). -/
  sp : Fin 17
  /-- The delay timer `DT` (R30). -/
  dt : Byte
  /-- The sound timer `ST` (R31). -/
  st : Byte
  /-- `KEY[0]` to `KEY[15]`, true for pressed (R32). -/
  key : Vector Bool 16
  /-- The press-edge latch `KEDGE[0]` to `KEDGE[15]` (R38). -/
  kedge : Vector Bool 16
  /-- The framebuffer `FB` (R33). -/
  fb : Frame
  /-- The frame-dirty flag `DIRTY` (R34). -/
  dirty : Bool
  /-- The run mode `MODE` (R36). -/
  mode : Mode
  /-- The fault record `FAULT` (R37). -/
  fault : FaultRecord
  /-- The LOAD result `load_err` (R44, R121). -/
  loadErr : Bool
  /-- MODEL'S OWN (log entry 14): the parameter `FONT` of the core, which RESET reads and nothing changes (R6, R42, R45). -/
  font : Vector Byte 80
  /-- MODEL'S OWN (log entry 2): how many random bytes have been drawn, so that every draw is a fresh one (R181). -/
  rndIndex : Nat
  /-- MODEL'S OWN (log entry 3): how many audio-cue events have been emitted; the cue is an output event (R42, R271). -/
  audioCues : Nat
  /-- MODEL'S OWN (log entry 1): the requests the agents have issued and the core has not yet performed, oldest first; a
  state with each list is a state with each serial order of the agents' operations (R122). -/
  requests : List Request
  deriving DecidableEq, Repr

/-- A step that stops the machine with a fault outside the spec's own fault record. There is no constructor: every
instruction and operation of the core is total, and the three faults the core raises (R260) are entries into `HALTED`, next
states. Safe. -/
inductive Fault : Type
  deriving DecidableEq, Repr

/-- A step with no meaning in this model. -/
inductive Refusal where
  /-- Raised by `exec`'s arm of an instruction that has no meaning yet, and by nothing else; no arm raises it now. Safe. -/
  | notModelled (mnemonic : String)
  deriving DecidableEq, Repr

/-- The state right after RESET of a core just created with the default `FONT` (R44, R290, R292); `State.created` is the same for
any `FONT`. Memory lists nothing: an unlisted address reads as RESET left it (log entry 5). The draws, cues and requests of the
model's own are empty (log entries 1 to 3). -/
def State.reset : State where
  mem := []
  v := Vector.replicate 16 0
  index := 0
  pc := Config.programBase
  stack := Vector.replicate 16 0
  sp := 0
  dt := 0
  st := 0
  key := Vector.replicate 16 false
  kedge := Vector.replicate 16 false
  fb := Vector.replicate 32 0
  dirty := true
  mode := .running
  fault := .clear
  loadErr := false
  font := Config.defaultFont
  rndIndex := 0
  audioCues := 0
  requests := []

end Sys2Proof.Machine
end

