-- ==== Sys2Proof/Machine/Ops.lean ====
section
/-! DEFINITION. The named operations over memory, registers, the call stack and the framebuffer, instruction fetch, fault
entry and RESET (10_state.md, 20_memory.md, 60_exceptions.md R262, 70_reset_and_hazards.md R290). -/

namespace Sys2Proof.Machine

/-! ### Memory (20_memory.md) -/

/-- What an unlisted address reads as: the contents RESET gives it under the default fontset, then zeros (R44, R68). After a
RESET with another `FONT` memory lists the bytes that differ. DEDUCED, log entry 5. -/
def Memory.unlisted (a : Nat) : Byte := if h : a < 80 then Config.defaultFont[a] else 0

/-- The byte of a cell, by its number. -/
def Memory.lookup : Memory → Nat → Byte
  | [], a => Memory.unlisted a
  | (b, x) :: m, a => if a = b then x else Memory.lookup m a

/-- Set the byte of a cell, by its number, keeping the canonical form. -/
def Memory.update : Memory → Nat → Byte → Memory
  | [], a, x => if x = Memory.unlisted a then [] else [(a, x)]
  | (b, y) :: m, a, x =>
    if a < b then (if x = Memory.unlisted a then (b, y) :: m else (a, x) :: (b, y) :: m)
    else if a = b then (if x = Memory.unlisted a then m else (a, x) :: m)
    else (b, y) :: Memory.update m a x

/-- `MemRead(a, 1)`: the byte at `a mod 4096` (R9, R61). -/
def Memory.read (m : Memory) (a : Nat) : Byte := Memory.lookup m (a % Config.memorySize)

/-- `MemWrite(a, 1, v)`: write the byte at `a mod 4096` (R9, R61). -/
def Memory.write (m : Memory) (a : Nat) (x : Byte) : Memory := Memory.update m (a % Config.memorySize) x

/-- The canonical form from address `lo` upward: addresses strictly rise and lie in the array, and no listed byte equals
what its address reads as unlisted. -/
def Memory.wfFrom : Nat → Memory → Bool
  | _, [] => true
  | lo, (a, x) :: m =>
    decide (lo ≤ a) && decide (a < Config.memorySize) && x != Memory.unlisted a && Memory.wfFrom (a + 1) m

/-- The canonical form of memory. -/
def Memory.wf (m : Memory) : Bool := Memory.wfFrom 0 m

/-- The address of byte `k` of a transfer from a 16-bit base: `(base + k) mod 4096` (R66, R206). -/
def dataAddr (base : Word) (k : Nat) : Nat := (base.toNat + k) % Config.memorySize

/-- Read byte `k` of a transfer from a base (R66). -/
def loadByte (m : Memory) (base : Word) (k : Nat) : Byte := Memory.read m (dataAddr base k)

/-- Write bytes at `base + k`, `base + k + 1` and so on (R66). -/
def storeBytes (m : Memory) (base : Word) : Nat → List Byte → Memory
  | _, [] => m
  | k, x :: xs => storeBytes (Memory.write m (dataAddr base k) x) base (k + 1) xs

/-- The instruction word at the program counter, the byte at the lower address the more significant (R62). -/
def fetchWord (s : State) : Word := loadByte s.mem s.pc 0 ++ loadByte s.mem s.pc 1

/-! ### Registers and the program counter -/

/-- `V[r]` (R20). -/
def State.reg (s : State) (r : Reg) : Byte := s.v[r.val]

/-- `V[r] <- x` (R20). -/
def State.setReg (s : State) (r : Reg) (x : Byte) : State := { s with v := s.v.set r.val x }

/-- Register VF's number (R21). -/
def vf : Reg := 15

/-- Write the flag (R21). -/
def State.setFlag (s : State) (x : Byte) : State := s.setReg vf x

/-- `pc <- target` (R24). -/
def State.jump (s : State) (target : Word) : State := { s with pc := target }

/-- The default advance `pc <- pc + 2` (R124). -/
def State.advance (s : State) : State := s.jump (s.pc + 2)

/-- A conditional skip: `pc <- pc + 4` when the condition holds, else the default advance (R124). -/
def State.skipIf (s : State) (c : Bool) : State := s.jump (if c then s.pc + 4 else s.pc + 2)

/-! ### The call stack (R28, R29) -/

/-- Push a value; none when the stack is full (R29). -/
def pushEntry (s : State) (x : Word) : Option State :=
  if h : s.sp.val < 16 then
    some { s with stack := s.stack.set s.sp.val x, sp := ⟨s.sp.val + 1, by omega⟩ }
  else none

/-- Pop a value, without clearing its entry; none when the stack is empty (R29). -/
def popEntry (s : State) : Option (Word × State) :=
  if h : 0 < s.sp.val then
    some (s.stack[s.sp.val - 1]'(by omega), { s with sp := ⟨s.sp.val - 1, by omega⟩ })
  else none

/-! ### The framebuffer (R33) -/

/-- The pixel in column `x mod 64` and row `y mod 32` (R33, R221). -/
def fbPixel (f : Frame) (x y : Nat) : Bool := (f[y % 32]'(Nat.mod_lt _ (by decide))).getLsbD (x % 64)

/-- Toggle the pixel in column `x mod 64` and row `y mod 32` (R221). -/
def fbFlip (f : Frame) (x y : Nat) : Frame :=
  f.set (y % 32) ((f[y % 32]'(Nat.mod_lt _ (by decide))) ^^^ BitVec.twoPow 64 (x % 64)) (Nat.mod_lt _ (by decide))

/-- Every pixel 0. -/
def fbClear : Frame := Vector.replicate 32 0

/-! ### Fault entry, and the way out of it -/

/-- `raise Fault(code, w, a)` with `a = pc`: record the fault, enter `HALTED`, and change nothing else (R262). -/
def raiseFault (code : FaultCode) (w : Word) (s : State) : State :=
  { s with fault := ⟨code, w, s.pc⟩, mode := .halted }

/-- Memory after RESET with a given fontset: the font at 0x000, every other byte 0 (R44, R290). -/
def resetMemory (font : Vector Byte 80) : Memory := storeBytes [] 0 0 font.toList

/-- RESET with a given `FONT` (R290): every state element to its reset value. It is the only way out of `HALTED`; no
instruction returns from a fault (R264). It emits no cue, draws nothing and drops no request, so those fields of the model's own
stay. -/
def resetWith (font : Vector Byte 80) (s : State) : State :=
  { State.reset with
    mem := resetMemory font, font := font, rndIndex := s.rndIndex, audioCues := s.audioCues, requests := s.requests }

/-- A core just created with the parameter `FONT` at a given value: creation performs RESET (R6, R45, R292). -/
def State.created (font : Vector Byte 80) : State := resetWith font State.reset

end Sys2Proof.Machine
end

