-- ==== Sys2Proof/Machine/Flags.lean ====
section
/-! DEFINITION. The values written to VF, one for each flag rule of 10_state.md R35. -/

namespace Sys2Proof.Machine

/-- A flag's value, 1 or 0 (R35). -/
def flagByte (c : Bool) : Byte := if c then 1 else 0

/-- `8XY4`: 1 on a carry out of bit 7 (R35, R176). -/
def carryFlag (a b : Byte) : Byte := flagByte (decide (a.toNat + b.toNat > 255))

/-- `8XY5` and `8XY7`: 1 when `minuend >= subtrahend`, no borrow (R35, R177, R179). -/
def noBorrowFlag (minuend subtrahend : Byte) : Byte := flagByte (decide (minuend.toNat ≥ subtrahend.toNat))

/-- `8XY6`: the bit shifted out, `b & 1` (R35, R178). -/
def lowBitFlag (b : Byte) : Byte := b &&& 1

/-- `8XYE`: the bit shifted out, `b >> 7` (R35, R180). -/
def highBitFlag (b : Byte) : Byte := b >>> 7

/-- `FX1E`: 1 when the unreduced sum exceeds 0xFFF (R35, R201). -/
def addressFlag (i : Word) (x : Byte) : Byte := flagByte (decide (i.toNat + x.toNat > 0xFFF))

/-- `DXYN`: 1 when a pixel went from 1 to 0 (R35, R221). -/
def collisionFlag (collided : Bool) : Byte := flagByte collided

end Sys2Proof.Machine
end

