-- ==== Sys2Proof/Machine/Operands.lean ====
section
/-! DEFINITION. The operand forms: addresses, the indexed jump target, key names, glyph addresses, decimal digits, register
ranges and sprite rows (30_encoding.md R93 and the instruction rules). -/

namespace Sys2Proof.Machine

/-- `zext_16(NNN)` (R93). -/
def address (nnn : Addr12) : Word := nnn.setWidth 16

/-- The target of the indexed jump, `zext_16(NNN) + V[0]` (R147). -/
def indexedTarget (nnn : Addr12) (v0 : Byte) : Word := address nnn + v0.setWidth 16

/-- `I + V[x]`, reduced modulo 2^16 (R201). -/
def indexSum (i : Word) (x : Byte) : Word := i + x.setWidth 16

/-- The key a register value names: its low nibble (R240). -/
def keyNamed (x : Byte) : Key := ⟨x.toNat % 16, Nat.mod_lt _ (by decide)⟩

/-- The address of the glyph of a value's low nibble, `0x000 + 5 * d` (R202). -/
def glyphAddr (x : Byte) : Word := BitVec.ofNat 16 (5 * (x.toNat % 16))

/-- Hundreds, tens and units of a value (R203). -/
def decimalDigits (x : Byte) : List Byte :=
  [BitVec.ofNat 8 (x.toNat / 100), BitVec.ofNat 8 (x.toNat / 10 % 10), BitVec.ofNat 8 (x.toNat % 10)]

/-- `V[0]` to `V[x]` inclusive, in order (R204). -/
def regsUpTo (s : State) (x : Reg) : List Byte := s.v.toList.take (x.val + 1)

/-- The register file after loading `V[0]` to `V[x]` from memory at `I` (R205). -/
def regsLoaded (s : State) (x : Reg) : Vector Byte 16 :=
  Vector.ofFn fun k => if k ≤ x then loadByte s.mem s.index k.val else s.reg k

/-- The `n` rows of a sprite at `I` (R221). -/
def spriteRows (s : State) (n : Nat) : List Byte := (List.range n).map (loadByte s.mem s.index)

/-- A register value's start column, `V[x] mod 64` (R221). -/
def spriteColumn (x : Byte) : Nat := x.toNat % 64

/-- A register value's start row, `V[y] mod 32` (R221). -/
def spriteRow (y : Byte) : Nat := y.toNat % 32

end Sys2Proof.Machine
end

