-- ==== Sys2Proof/Machine/Alu.lean ====
section
/-! DEFINITION. Register loads, the register-register ALU family and the random byte (42_alu.md). Operands are read before the
first write and VF is written after the destination (R10, R184). -/

namespace Sys2Proof.Machine

/-- Write a destination and go on (R124). -/
def writeReg (s : State) (x : Reg) (r : Byte) : Host.Outcome State Fault Refusal := .next (s.setReg x r).advance

/-- Write a destination, then the flag, and go on (R21, R124). -/
def writeRegFlag (s : State) (x : Reg) (r flag : Byte) : Host.Outcome State Fault Refusal :=
  .next ((s.setReg x r).setFlag flag).advance

/-- `6XNN` (R170). -/
def execLdImm (x : Reg) (nn : Byte) (s : State) : Host.Outcome State Fault Refusal := writeReg s x nn

/-- `7XNN`: no flag (R171). -/
def execAddImm (x : Reg) (nn : Byte) (s : State) : Host.Outcome State Fault Refusal := writeReg s x (s.reg x + nn)

/-- `8XY0` (R172). -/
def execLdReg (x y : Reg) (s : State) : Host.Outcome State Fault Refusal := writeReg s x (s.reg y)

/-- `8XY1` (R173). -/
def execOrReg (x y : Reg) (s : State) : Host.Outcome State Fault Refusal := writeReg s x (s.reg x ||| s.reg y)

/-- `8XY2` (R174). -/
def execAndReg (x y : Reg) (s : State) : Host.Outcome State Fault Refusal := writeReg s x (s.reg x &&& s.reg y)

/-- `8XY3` (R175). -/
def execXorReg (x y : Reg) (s : State) : Host.Outcome State Fault Refusal := writeReg s x (s.reg x ^^^ s.reg y)

/-- `8XY4` (R176). -/
def execAddReg (x y : Reg) (s : State) : Host.Outcome State Fault Refusal :=
  writeRegFlag s x (s.reg x + s.reg y) (carryFlag (s.reg x) (s.reg y))

/-- `8XY5` (R177). -/
def execSub (x y : Reg) (s : State) : Host.Outcome State Fault Refusal :=
  writeRegFlag s x (s.reg x - s.reg y) (noBorrowFlag (s.reg x) (s.reg y))

/-- `8XY6`: the operand is `V[y]` (R178). -/
def execShr (x y : Reg) (s : State) : Host.Outcome State Fault Refusal :=
  writeRegFlag s x (s.reg y >>> 1) (lowBitFlag (s.reg y))

/-- `8XY7` (R179). -/
def execSubn (x y : Reg) (s : State) : Host.Outcome State Fault Refusal :=
  writeRegFlag s x (s.reg y - s.reg x) (noBorrowFlag (s.reg y) (s.reg x))

/-- `8XYE`: the operand is `V[y]` (R180). -/
def execShl (x y : Reg) (s : State) : Host.Outcome State Fault Refusal :=
  writeRegFlag s x (s.reg y <<< 1) (highBitFlag (s.reg y))

/-- `CXNN`: a fresh random byte, a free value, masked with `NN` (R181; log entry 2). -/
def execRnd (x : Reg) (nn : Byte) (s : State) : Host.Outcome State Fault Refusal :=
  writeReg { s with rndIndex := s.rndIndex + 1 } x (Config.rnd s.rndIndex &&& nn)

end Sys2Proof.Machine
end

