-- ==== Sys2Proof/Machine/Control.lean ====
section
/-! DEFINITION. Control flow: return, jump, call, the conditional skips and the indexed jump (41_control_flow.md). -/

namespace Sys2Proof.Machine

/-- `00EE`: pop the call site and go to the instruction after it; `StackUnderflow` on an empty stack (R140). -/
def execRet (s : State) : Host.Outcome State Fault Refusal :=
  match popEntry s with
  | some (site, t) => .next (t.jump (site + 2))
  | none => .next (raiseFault .stackUnderflow (encode .ret) s)

/-- `1NNN` (R141). -/
def execJp (nnn : Addr12) (s : State) : Host.Outcome State Fault Refusal := .next (s.jump (address nnn))

/-- `2NNN`: push this instruction's address and jump; `StackOverflow` on a full stack (R142). -/
def execCall (nnn : Addr12) (s : State) : Host.Outcome State Fault Refusal :=
  match pushEntry s s.pc with
  | some t => .next (t.jump (address nnn))
  | none => .next (raiseFault .stackOverflow (encode (.call nnn)) s)

/-- `3XNN` (R143). -/
def execSeImm (x : Reg) (nn : Byte) (s : State) : Host.Outcome State Fault Refusal :=
  .next (s.skipIf (s.reg x == nn))

/-- `4XNN` (R144). -/
def execSneImm (x : Reg) (nn : Byte) (s : State) : Host.Outcome State Fault Refusal :=
  .next (s.skipIf (s.reg x != nn))

/-- `5XY0` (R145). -/
def execSeReg (x y : Reg) (s : State) : Host.Outcome State Fault Refusal :=
  .next (s.skipIf (s.reg x == s.reg y))

/-- `9XY0` (R146). -/
def execSneReg (x y : Reg) (s : State) : Host.Outcome State Fault Refusal :=
  .next (s.skipIf (s.reg x != s.reg y))

/-- `BNNN` (R147). -/
def execJpV0 (nnn : Addr12) (s : State) : Host.Outcome State Fault Refusal :=
  .next (s.jump (indexedTarget nnn (s.reg 0)))

end Sys2Proof.Machine
end

