-- ==== Sys2Proof/Machine/Display.lean ====
section
/-! DEFINITION. Clearing the screen and drawing a sprite (44_display.md). -/

namespace Sys2Proof.Machine

/-- Draw one pixel of a sprite: toggle it, and note a collision when it was set (R221). -/
def drawPixel (acc : Frame × Bool) (x y : Nat) : Frame × Bool := (fbFlip acc.1 x y, acc.2 || fbPixel acc.1 x y)

/-- Draw one sprite row from column `x0` in row `y`, bit 7 leftmost (R221). -/
def drawRow (acc : Frame × Bool) (x0 y : Nat) (row : Byte) : Frame × Bool :=
  (List.range 8).foldl (fun acc c => if row.getLsbD (7 - c) then drawPixel acc (x0 + c) y else acc) acc

/-- Draw sprite rows downward from row `y` (R221). -/
def drawRows (acc : Frame × Bool) (x0 y : Nat) : List Byte → Frame × Bool
  | [] => acc
  | row :: rows => drawRows (drawRow acc x0 y row) x0 (y + 1) rows

/-- `00E0` (R220). -/
def execCls (s : State) : Host.Outcome State Fault Refusal :=
  .next { s with fb := fbClear, dirty := true }.advance

/-- `DXYN`: the coordinates are read before VF is written (R221). -/
def execDrw (x y : Reg) (n : Fin 16) (s : State) : Host.Outcome State Fault Refusal :=
  let drawn := drawRows (s.fb, false) (spriteColumn (s.reg x)) (spriteRow (s.reg y)) (spriteRows s n.val)
  .next ({ s with fb := drawn.1, dirty := true }.setFlag (collisionFlag drawn.2)).advance

end Sys2Proof.Machine
end

