-- ==== Sys2Proof/Machine/Index.lean ====
section
/-! DEFINITION. The index register and the transfers between registers and memory (43_index_memory.md). -/

namespace Sys2Proof.Machine

/-- `ANNN` (R200). -/
def execLdI (nnn : Addr12) (s : State) : Host.Outcome State Fault Refusal :=
  .next { s with index := address nnn }.advance

/-- `FX1E`: the flag, from the unreduced sum, is written after `I` (R201). -/
def execAddIVx (x : Reg) (s : State) : Host.Outcome State Fault Refusal :=
  .next ({ s with index := indexSum s.index (s.reg x) }.setFlag (addressFlag s.index (s.reg x))).advance

/-- `FX29` (R202). -/
def execLdFVx (x : Reg) (s : State) : Host.Outcome State Fault Refusal :=
  .next { s with index := glyphAddr (s.reg x) }.advance

/-- `FX33` (R203). -/
def execLdBVx (x : Reg) (s : State) : Host.Outcome State Fault Refusal :=
  .next { s with mem := storeBytes s.mem s.index 0 (decimalDigits (s.reg x)) }.advance

/-- `FX55` (R204). -/
def execLdMemVx (x : Reg) (s : State) : Host.Outcome State Fault Refusal :=
  .next { s with mem := storeBytes s.mem s.index 0 (regsUpTo s x) }.advance

/-- `FX65` (R205). -/
def execLdVxMem (x : Reg) (s : State) : Host.Outcome State Fault Refusal :=
  .next { s with v := regsLoaded s x }.advance

end Sys2Proof.Machine
end

