-- ==== Sys2Proof/Machine/Keys.lean ====
section
/-! DEFINITION. The key tests, timer access, and the wait for a key (45_keys_timers.md). -/

namespace Sys2Proof.Machine

/-- `EX9E`: the level of the key, not the latch (R241). -/
def execSkp (x : Reg) (s : State) : Host.Outcome State Fault Refusal :=
  .next (s.skipIf (s.key[(keyNamed (s.reg x)).val]))

/-- `EXA1` (R242). -/
def execSknp (x : Reg) (s : State) : Host.Outcome State Fault Refusal :=
  .next (s.skipIf (!s.key[(keyNamed (s.reg x)).val]))

/-- `FX07` (R243). -/
def execLdVxDt (x : Reg) (s : State) : Host.Outcome State Fault Refusal := .next (s.setReg x s.dt).advance

/-- `FX15` (R244). -/
def execLdDtVx (x : Reg) (s : State) : Host.Outcome State Fault Refusal := .next { s with dt := s.reg x }.advance

/-- `FX18`: emits no cue (R245). -/
def execLdStVx (x : Reg) (s : State) : Host.Outcome State Fault Refusal := .next { s with st := s.reg x }.advance

/-- No key latched (R246). -/
def noEdges : Vector Bool 16 := Vector.replicate 16 false

/-- `FX0A`: clear the latch and start the wait, leaving the program counter (R246). -/
def execLdVxK (x : Reg) (s : State) : Host.Outcome State Fault Refusal :=
  .next { s with kedge := noEdges, mode := .awaitingKey x }

/-- The least key whose press is latched (R247). -/
def leastEdge (kedge : Vector Bool 16) : Option Key := (List.finRange 16).find? fun k => kedge[k.val]

/-- A STEP in `AWAITING_KEY(x)`: with a latched press, write the key's index, clear the latch and run on past the `FX0A`;
with none, change nothing (R247). -/
def keyWaitPoll (x : Reg) (s : State) : State :=
  match leastEdge s.kedge with
  | some k => ({ s with kedge := noEdges, mode := .running }.setReg x (BitVec.ofNat 8 k.val)).advance
  | none => s

end Sys2Proof.Machine
end

