-- ==== Sys2Proof/Machine/Ports.lean ====
section
/-! DEFINITION. The operations the other agents issue, TICK, KEY, ACK and LOAD, and the read-only outputs (40_cycle.md R120,
R121). RESET is `resetWith`, in Ops.lean. -/

namespace Sys2Proof.Machine

/-- A timer one tick later, never below zero (R270). -/
def countDown (t : Byte) : Byte := if t = 0 then 0 else t - 1

/-- TICK: count both timers down; emit one cue when the sound timer goes from 1 to 0 (R270, R271). -/
def tick (s : State) : State :=
  { s with
    dt := countDown s.dt, st := countDown s.st, audioCues := if s.st = 1 then s.audioCues + 1 else s.audioCues }

/-- KEY: latch a released-to-pressed transition, then set the level (R250). -/
def setKey (k : Key) (pressed : Bool) (s : State) : State :=
  { s with
    kedge := if pressed && !s.key[k.val] then s.kedge.set k.val true else s.kedge, key := s.key.set k.val pressed }

/-- ACK (R225). -/
def acknowledge (s : State) : State := { s with dirty := false }

/-- LOAD: write the program, or reject one that is too large and write nothing (R291). -/
def loadProgram (bytes : List Byte) (s : State) : State :=
  if bytes.length > Config.maxProgram then { s with loadErr := true }
  else { s with mem := storeBytes s.mem Config.programBase 0 bytes, loadErr := false }

/-! ### Read-only outputs (R121) -/

/-- `fb_rd_data` for an 11-bit `fb_rd_addr = y * 64 + x` (R224). -/
def fbReadPort (s : State) (a : BitVec 11) : Bool := fbPixel s.fb (a.toNat % 64) (a.toNat / 64)

/-- `mode`: 0 `RUNNING`, 1 `AWAITING_KEY`, 2 `HALTED` (R36). -/
def modePort (s : State) : BitVec 2 :=
  match s.mode with
  | .running => 0
  | .awaitingKey _ => 1
  | .halted => 2

/-- `mode_reg`: the target register, meaningful only in `AWAITING_KEY`; no value is given elsewhere (R36). -/
def modeRegPort (s : State) : Option (BitVec 4) :=
  match s.mode with
  | .awaitingKey x => some (BitVec.ofFin x)
  | .running => none
  | .halted => none

/-- The number of a fault's code (R37, R260). -/
def faultNumber : FaultCode → BitVec 2
  | .none => 0
  | .invalidOpcode => 1
  | .stackOverflow => 2
  | .stackUnderflow => 3

/-- `fault_code`, `fault_opcode` and `fault_pc` (R121). -/
def faultPort (s : State) : BitVec 2 × Word × Word := (faultNumber s.fault.code, s.fault.opcode, s.fault.faultPc)

/-- `dirty` (R121, R224). -/
def dirtyPort (s : State) : Bool := s.dirty

/-- `load_err` (R121). -/
def loadErrPort (s : State) : Bool := s.loadErr

end Sys2Proof.Machine
end

