-- ==== Sys2Proof/Machine/Cycle.lean ====
section
/-! DEFINITION. The STEP operation and the performing of one request (40_cycle.md R120, R123, R124). -/

namespace Sys2Proof.Machine

/-- STEP in `RUNNING`: fetch, decode and execute one instruction; an invalid word raises `InvalidOpcode` (R124, R260). -/
def runOneInstruction (s : State) : Host.Outcome State Fault Refusal :=
  match decode (fetchWord s) with
  | .ok i => exec i s
  | .error _ => .next (raiseFault .invalidOpcode (fetchWord s) s)

/-- The STEP operation (R123, R126). -/
def stepOperation (s : State) : Host.Outcome State Fault Refusal :=
  match s.mode with
  | .running => runOneInstruction s
  | .awaitingKey x => .next (keyWaitPoll x s)
  | .halted => .next s

/-- Perform one request; RESET reads the parameter `FONT` (R120, R6, R42). -/
def perform (r : Request) (s : State) : Host.Outcome State Fault Refusal :=
  match r with
  | .reset => .next (resetWith s.font s)
  | .load bytes => .next (loadProgram bytes s)
  | .step => stepOperation s
  | .tick => .next (tick s)
  | .key k pressed => .next (setKey k pressed s)
  | .ack => .next (acknowledge s)

/-- Perform the oldest request; with none waiting, the driving loop issues a STEP (R122; log entry 1). -/
def serve (s : State) : Host.Outcome State Fault Refusal :=
  match s.requests with
  | [] => stepOperation s
  | r :: rest => perform r { s with requests := rest }

/-- A state whose next step fetches and runs a given word: the word is at the program counter, the mode is `RUNNING` and no
request comes before it. -/
def placeWord (s : State) (w : Word) : State :=
  { s with mem := storeBytes s.mem s.pc 0 (bytesOfWord w), mode := .running, requests := [] }

end Sys2Proof.Machine
end

