-- ==== Sys2Proof/Machine/Step.lean ====
section
/-! DEFINITION. One step of the machine: one operation of the core (40_cycle.md R120). -/

namespace Sys2Proof.Machine

/-- One step: the oldest waiting request of the agents, or else a STEP (R120, R122, R123; log entry 1). -/
def step (s : State) : Host.Outcome State Fault Refusal := serve s

/-- The state whose next step fetches and runs the table word `w` of `nbits` bits. -/
def State.withFetchWord (s : State) (nbits w : Nat) : State := placeWord s (BitVec.ofNat 16 (w % 2 ^ nbits))

end Sys2Proof.Machine
end

