-- ==== Sys2Proof/WellFormed.lean ====
section
/-! DEFINITION. Which instruction words are valid encodings (30_encoding.md R100 to R105), written in the arithmetic of R7 and
R91 and not from the decoder, which is held against it. An `Instr` itself has no ill-formed term (Syntax.lean). -/

namespace Sys2Proof

/-- Family 0 holds exactly `00E0` and `00EE` (R101). -/
def family0Ok (w : Word) : Bool := w == 0x00E0#16 || w == 0x00EE#16

/-- In families 5 and 9 the low nibble is 0 (R102). -/
def skipRegOk (w : Word) : Bool := w.toNat % 16 == 0

/-- In family 8 the low nibble is one of the nine operations' (R103). -/
def aluOk (w : Word) : Bool := decide (w.toNat % 16 ≤ 7) || w.toNat % 16 == 0xE

/-- In family E the low byte is 9E or A1 (R104). -/
def keyOk (w : Word) : Bool := w.toNat % 256 == 0x9E || w.toNat % 256 == 0xA1

/-- In family F the low byte is one of nine (R104). -/
def miscOk (w : Word) : Bool :=
  [0x07, 0x0A, 0x15, 0x18, 0x1E, 0x29, 0x33, 0x55, 0x65].contains (w.toNat % 256)

/-- The word is a valid encoding (R100 to R105): its family's check holds, and a family with no check has no invalid word. -/
def wordWellFormed (w : Word) : Bool :=
  match w.toNat / 4096 with
  | 0x0 => family0Ok w
  | 0x5 => skipRegOk w
  | 0x8 => aluOk w
  | 0x9 => skipRegOk w
  | 0xE => keyOk w
  | 0xF => miscOk w
  | _ => true

end Sys2Proof
end

