-- ==== Sys2Proof/Safety.lean ====
section
/-! DEFINITION. The terms claims use: what a safe state is, what a step may leave unchanged, and the shapes of an instruction's
effect, each in the mathematical integers of 00_scope.md R8. -/

namespace Sys2Proof.Machine

/-! ### Safe states -/

/-- The fault record agrees with the run mode and with what raised it (R37, R260, R262): outside `HALTED` it is clear; in
`HALTED` it holds the program counter and a word that raises its code in this state. -/
def FaultRecordAgrees (s : State) : Prop :=
  if s.mode = .halted then
    s.fault.faultPc = s.pc ∧
      match s.fault.code with
      | .none => False
      | .invalidOpcode => wordWellFormed s.fault.opcode = false
      | .stackOverflow => s.fault.opcode.toNat / 4096 = 2 ∧ s.sp = 16
      | .stackUnderflow => s.fault.opcode = 0x00EE#16 ∧ s.sp = 0
  else s.fault = .clear

/-- Every element of the core has its reset value under a given `FONT` (R44, R290); the values of `SP`, `KEDGE`, `DIRTY`, `MODE`,
`FAULT` and `load_err` are the spec's decision D26. -/
def HoldsResetValues (font : Vector Byte 80) (t : State) : Prop :=
  (∀ (a : Nat) (h : a < 80), Memory.read t.mem a = font[a]) ∧
  (∀ a, 80 ≤ a → a < 4096 → Memory.read t.mem a = 0) ∧
  (∀ r : Reg, t.reg r = 0) ∧ t.index = 0 ∧ t.pc = 0x200 ∧ (∀ (j : Nat) (h : j < 16), t.stack[j] = 0) ∧ t.sp = 0 ∧
  t.dt = 0 ∧ t.st = 0 ∧ (∀ k : Key, t.key[k.val] = false ∧ t.kedge[k.val] = false) ∧
  (∀ px py, fbPixel t.fb px py = false) ∧ t.dirty = true ∧ t.mode = .running ∧ t.fault = ⟨.none, 0, 0⟩ ∧
  t.loadErr = false ∧ t.font = font

/-- No request is waiting and the core is running: the next step fetches and executes one instruction (R123, R124). -/
def Fetching (s : State) : Prop := s.requests = [] ∧ s.mode = .running

/-- The instruction word at the program counter, from two byte reads (R62). -/
def wordAtPc (s : State) : Word := Memory.read s.mem s.pc.toNat ++ Memory.read s.mem (s.pc.toNat + 1)

/-! ### Frames -/

/-- Every byte of memory reads in `t` as it did in `s`. -/
def MemorySame (s t : State) : Prop := ∀ a : Nat, Memory.read t.mem a = Memory.read s.mem a

/-- Every byte of memory outside the `n` bytes of a transfer from `base` reads in `t` as it did in `s`. -/
def MemorySameOutside (base : Word) (n : Nat) (s t : State) : Prop :=
  ∀ a : Nat, (∀ k < n, a % 4096 ≠ dataAddr base k) → Memory.read t.mem a = Memory.read s.mem a

/-- The default advance, `pc <- pc + 2` modulo 2^16 (R124). -/
def Advanced (s t : State) : Prop := t.pc.toNat = (s.pc.toNat + 2) % 65536

/-! ### Shapes of an instruction's effect -/

/-- The instruction's word lies in a row of the opcode map given by match and mask (R94). -/
def EncodedIn (i : Instr) (pattern mask : Word) : Prop := encode i &&& mask = pattern

/-- The instruction completes, writes `value` to `V[x]` and advances; every other register, all of memory and every other
part of the state stay. -/
def WritesOneReg (i : Instr) (x : Reg) (value : Nat) (s : State) : Prop :=
  ∃ t, exec i s = .next t ∧ t = { s with v := t.v, pc := t.pc } ∧ Advanced s t ∧ (t.reg x).toNat = value ∧
    (∀ r, r ≠ x → t.reg r = s.reg r) ∧ MemorySame s t

/-- The instruction completes, writes `value` to `V[x]` and then `flag` to VF, and advances; every other register, all of
memory and every other part of the state stay. Where `x` is VF the flag is what it holds. -/
def WritesRegThenFlag (i : Instr) (x : Reg) (value flag : Nat) (s : State) : Prop :=
  ∃ t, exec i s = .next t ∧ t = { s with v := t.v, pc := t.pc } ∧ Advanced s t ∧
    (∀ r, (t.reg r).toNat = if r = 15 then flag else if r = x then value else (s.reg r).toNat) ∧ MemorySame s t

/-- The instruction completes and skips when the condition holds; nothing but the program counter changes. -/
def SkipsWhen (i : Instr) (c : Prop) (s : State) : Prop :=
  ∃ t, exec i s = .next t ∧ t = { s with pc := t.pc } ∧ (c → t.pc.toNat = (s.pc.toNat + 4) % 65536) ∧
    (¬ c → Advanced s t) ∧ MemorySame s t

/-- The instruction completes and goes to a target; nothing but the program counter changes. -/
def JumpsTo (i : Instr) (target : Nat) (s : State) : Prop :=
  ∃ t, exec i s = .next t ∧ t = { s with pc := t.pc } ∧ t.pc.toNat = target ∧ MemorySame s t

/-- Sprite row `r`, column `c` of an `n`-row sprite at `I` has a 1 bit, and `(px, py)` is where it falls when drawn from column
`x0` and row `y0`, with wraparound (R221). -/
def SpriteBitAt (s : State) (x0 y0 n px py : Nat) : Prop :=
  ∃ r < n, ∃ c < 8, px = (x0 + c) % 64 ∧ py = (y0 + r) % 32 ∧
    (Memory.read s.mem (dataAddr s.index r)).getLsbD (7 - c) = true

/-- The program counter after each instruction (R25), as a number. That a key is named by a register's low nibble is the spec's
decision D14, and the reduction modulo 2^16 its D3. -/
def nextPc (i : Instr) (s : State) : Nat :=
  let advance := (s.pc.toNat + 2) % 65536
  let skip (c : Bool) := if c then (s.pc.toNat + 4) % 65536 else advance
  match i with
  | .jp nnn => nnn.toNat
  | .call nnn => if s.sp = 16 then s.pc.toNat else nnn.toNat
  | .jpV0 nnn => nnn.toNat + (s.reg 0).toNat
  | .ret => if h : s.sp = 0 then s.pc.toNat else ((s.stack[s.sp.val - 1]'(by omega)).toNat + 2) % 65536
  | .seImm x nn => skip (s.reg x = nn)
  | .sneImm x nn => skip (s.reg x ≠ nn)
  | .seReg x y => skip (s.reg x = s.reg y)
  | .sneReg x y => skip (s.reg x ≠ s.reg y)
  | .skp x => skip (s.key[(s.reg x).toNat % 16]'(Nat.mod_lt _ (by decide)) = true)
  | .sknp x => skip (s.key[(s.reg x).toNat % 16]'(Nat.mod_lt _ (by decide)) = false)
  | .ldVxK _ => s.pc.toNat
  | .cls | .ldImm _ _ | .addImm _ _ | .ldReg _ _ | .orReg _ _ | .andReg _ _ | .xorReg _ _ | .addReg _ _ | .sub _ _
  | .shr _ _ | .subn _ _ | .shl _ _ | .ldI _ | .rnd _ _ | .drw _ _ _ | .ldVxDt _ | .ldDtVx _ | .ldStVx _ | .addIVx _
  | .ldFVx _ | .ldBVx _ | .ldMemVx _ | .ldVxMem _ => advance

/-- The registers an instruction may write while it executes, the "writes" column of R22; `FX0A` writes its register only
when the wait completes. -/
def mayWrite (i : Instr) (r : Reg) : Prop :=
  match i with
  | .ldImm x _ | .addImm x _ | .ldReg x _ | .orReg x _ | .andReg x _ | .xorReg x _ | .rnd x _ | .ldVxDt x => r = x
  | .addReg x _ | .sub x _ | .shr x _ | .subn x _ | .shl x _ => r = x ∨ r = 15
  | .drw _ _ _ | .addIVx _ => r = 15
  | .ldVxMem x => r ≤ x
  | .cls | .ret | .jp _ | .call _ | .seImm _ _ | .sneImm _ _ | .seReg _ _ | .sneReg _ _ | .ldI _ | .jpV0 _ | .skp _
  | .sknp _ | .ldVxK _ | .ldDtVx _ | .ldStVx _ | .ldFVx _ | .ldBVx _ | .ldMemVx _ => False

end Sys2Proof.Machine
end

