-- ==== Sys2Proof/Certificates/Slice0/Obligations.lean ====
section
/-! DEFINITION. The statements for the provers, each about every state unless it says otherwise. -/

open Sys2Proof Sys2Proof.Machine

/-! ### Encoding (30_encoding.md) -/

/-- No encoding drops or moves an operand bit: decoding an instruction's word gives the instruction back, with every operand
at every value (R92 to R96). -/
def Obligations.DecodeOfEncodeIsTheInstruction : Prop := ∀ i : Instr, decode (encode i) = .ok i

/-- Every bit of a valid word is an operand bit or a fixed bit (R96): the instruction decoded from a word has no other word. -/
def Obligations.EncodeOfADecodedInstructionIsItsWord : Prop := ∀ (w : Word) (i : Instr), decode w = .ok i → encode i = w

/-- A word is a row's instruction exactly when its bits under the row's mask are the row's match, and no word matches two of
the 34 rows (R94; rows `8XY1` to `8XY7` and `ANNN` rest on the spec's decisions D10 and D7). -/
def Obligations.WordsDecodeToTheRowThatCoversThem : Prop :=
  opcodeTable.length = 34 ∧
  (∀ w : Word, ∀ row ∈ opcodeTable, row.covers w = true ↔ ∃ i, decode w = .ok i ∧ rowOf i = row) ∧
  opcodeTable.Pairwise fun r₁ r₂ => ∀ w : Word, ¬ (r₁.covers w = true ∧ r₂.covers w = true)

/-- Each rejection of the decoder happens exactly on the words its rule makes invalid (R101 to R104), in the arithmetic of R91;
every other word is an instruction (R105; R101, R102 and R105 rest on the spec's decisions D8, D9 and D19). -/
def Obligations.EachInvalidWordIsRejectedByItsRule : Prop :=
  ∀ w : Word,
    (decode w = .error .family0 ↔ w.toNat / 4096 = 0 ∧ w ≠ 0x00E0#16 ∧ w ≠ 0x00EE#16) ∧
    (decode w = .error .skipNibble ↔ (w.toNat / 4096 = 5 ∨ w.toNat / 4096 = 9) ∧ w.toNat % 16 ≠ 0) ∧
    (decode w = .error .aluNibble ↔
      w.toNat / 4096 = 8 ∧ w.toNat % 16 ∈ [0x8, 0x9, 0xA, 0xB, 0xC, 0xD, 0xF]) ∧
    (decode w = .error .keyByte ↔ w.toNat / 4096 = 0xE ∧ w.toNat % 256 ∉ [0x9E, 0xA1]) ∧
    (decode w = .error .miscByte ↔
      w.toNat / 4096 = 0xF ∧ w.toNat % 256 ∉ [0x07, 0x0A, 0x15, 0x18, 0x1E, 0x29, 0x33, 0x55, 0x65]) ∧
    decode w ≠ .error .tooShort ∧
    ((∃ i, decode w = .ok i) ↔ wordWellFormed w = true)

/-- Words written out from the opcode map, one a format and family, decode to what they stand for. A sanity statement.
That `0xA300` is an instruction is the spec's decision D7 (PRESUMED, log entry 7), and the digit 7 of `0x8FE7` its D10. -/
def Obligations.WordsWrittenFromTheMapDecode : Prop :=
  decode 0x00E0#16 = .ok .cls ∧ decode 0x1ABC#16 = .ok (.jp 0xABC) ∧ decode 0x3342#16 = .ok (.seImm 3 0x42) ∧
  decode 0x9120#16 = .ok (.sneReg 1 2) ∧ decode 0x6A42#16 = .ok (.ldImm 0xA 0x42) ∧
  decode 0x8FE7#16 = .ok (.subn 0xF 0xE) ∧ decode 0xA300#16 = .ok (.ldI 0x300) ∧
  decode 0xD125#16 = .ok (.drw 1 2 5) ∧ decode 0xE5A1#16 = .ok (.sknp 5) ∧ decode 0xF30A#16 = .ok (.ldVxK 3)

/-! ### The machine's step (40_cycle.md) -/

/-- With no request waiting and the core running, the step is the decoded instruction's execution, on the word whose more
significant byte is the one at the program counter; an invalid word enters `HALTED` with the word and its address recorded
and changes nothing else (R62, R124, R262; the precision of the fault is the spec's decision D22). -/
def Obligations.StepRunsTheDecodedInstruction : Prop :=
  ∀ s : State, Fetching s →
    (∀ i, decode (wordAtPc s) = .ok i → step s = exec i s) ∧
    (∀ e, decode (wordAtPc s) = .error e →
      step s = .next { s with fault := ⟨.invalidOpcode, wordAtPc s, s.pc⟩, mode := .halted })

/-- Executing a word that matches no row of the opcode map raises `InvalidOpcode` with the word and its address, and the core
halts (R100). -/
def Obligations.UnmatchedWordRaisesInvalidOpcode : Prop :=
  ∀ s : State, Fetching s → (∀ row ∈ opcodeTable, row.covers (wordAtPc s) = false) →
    ∃ t, step s = .next t ∧ t.fault = ⟨.invalidOpcode, wordAtPc s, s.pc⟩ ∧ t.mode = .halted

/-- A STEP in `HALTED` changes nothing (R126, the spec's decision D23), however many are issued. -/
def Obligations.HaltedCoreStaysAsItIs : Prop :=
  ∀ (s : State) (n : Nat), s.requests = [] → s.mode = .halted → core.run n s = .next s

/-- Every operation is total: a step of the machine always gives a next state (R260, R290; the host's ports of R120). -/
def Obligations.EveryStepAnswersANextState : Prop := ∀ s : State, ∃ t, step s = .next t

/-- The waiting requests are no part of what an instruction does: a STEP with others behind it has the effect it has alone,
and leaves them waiting (R122; the queue is the model's own, log entry 1). -/
def Obligations.WaitingRequestsDoNotInfluenceAStep : Prop :=
  ∀ (s t : State) (rest : List Request), step { s with requests := [] } = .next t →
    t.requests = [] ∧ step { s with requests := .step :: rest } = .next { t with requests := rest }

/-- Every transition of the run mode, and no other (R127): a STEP, whether the driving loop's or a request's, by the mode and
the instruction; RESET from any mode; and no change under the four other operations. -/
def Obligations.RunModeTransitions : Prop :=
  ∀ s t : State, step s = .next t →
    ((s.requests = [] ∨ ∃ rest, s.requests = .step :: rest) →
      match s.mode with
      | .running =>
        match decode (wordAtPc s) with
        | .ok (.ldVxK x) => t.mode = .awaitingKey x
        | .ok (.call _) => if s.sp = 16 then t.mode = .halted else t.mode = .running
        | .ok .ret => if s.sp = 0 then t.mode = .halted else t.mode = .running
        | .ok _ => t.mode = .running
        | .error _ => t.mode = .halted
      | .awaitingKey x =>
        if ∃ k : Key, s.kedge[k.val] = true then t.mode = .running else t.mode = .awaitingKey x
      | .halted => t.mode = .halted) ∧
    (∀ r rest, s.requests = r :: rest → (r = .reset → t.mode = .running) ∧ (r ≠ .reset → r ≠ .step → t.mode = s.mode))

/-- How each instruction changes the program counter (R25, R140 to R147, R241 to R247): a faulting one leaves it, an invalid word
leaves it, and the STEP that completes a key wait advances it by 2. The wrap modulo 2^16, the key's low nibble, the latch, the
popped call site and the precise faults are the spec's decisions D3, D14, D15, D21 and D22. -/
def Obligations.ProgramCounterAfterEachInstruction : Prop :=
  (∀ (i : Instr) (s t : State), exec i s = .next t → t.pc.toNat = nextPc i s) ∧
  (∀ s t : State, Fetching s → (∀ i, decode (wordAtPc s) ≠ .ok i) → step s = .next t → t.pc = s.pc) ∧
  (∀ (s t : State) (x : Reg) (k : Key), s.requests = [] → s.mode = .awaitingKey x → s.kedge[k.val] = true →
    step s = .next t → Advanced s t)

/-! ### Whole-machine frames -/

/-- No instruction writes a register outside its row of the register access table (R22, which the spec derives; that VF is
unchanged by `8XY1` to `8XY3` is its decision D12). -/
def Obligations.OnlyTheListedRegistersAreWritten : Prop :=
  ∀ (i : Instr) (s t : State) (r : Reg), exec i s = .next t → ¬ mayWrite i r → t.reg r = s.reg r

/-- Each part of the state changes only under the instructions named for it: memory under `FX33` and `FX55`, `I` under `ANNN`,
`FX1E` and `FX29`, the stack under `2NNN` and `00EE`, the framebuffer and `DIRTY` under `00E0` and `DXYN`, `DT` under `FX15`,
`ST` under `FX18`, the latch under `FX0A`; the keypad, `load_err`, `FONT`, the emitted cues and the waiting requests under none
(R24 to R38, R69, R271; the clauses on the stack, on `I` and on the cues are the spec's decisions D21, D13 and D25). The draws,
cues, requests and `FONT` are fields of the model's own, log entries 1 to 3 and 14. -/
def Obligations.EachPartChangesOnlyUnderItsInstructions : Prop :=
  ∀ (i : Instr) (s t : State), exec i s = .next t →
    ((∀ x, i ≠ .ldBVx x ∧ i ≠ .ldMemVx x) → t.mem = s.mem ∧ MemorySame s t) ∧
    ((∀ n x, i ≠ .ldI n ∧ i ≠ .addIVx x ∧ i ≠ .ldFVx x) → t.index = s.index) ∧
    ((∀ n, i ≠ .call n ∧ i ≠ .ret) → t.stack = s.stack ∧ t.sp = s.sp ∧ t.fault = s.fault) ∧
    ((∀ x y n, i ≠ .cls ∧ i ≠ .drw x y n) → t.fb = s.fb ∧ t.dirty = s.dirty) ∧
    ((∀ x, i ≠ .ldDtVx x) → t.dt = s.dt) ∧ ((∀ x, i ≠ .ldStVx x) → t.st = s.st) ∧
    ((∀ x, i ≠ .ldVxK x) → t.kedge = s.kedge) ∧ ((∀ x nn, i ≠ .rnd x nn) → t.rndIndex = s.rndIndex) ∧
    t.key = s.key ∧ t.loadErr = s.loadErr ∧ t.font = s.font ∧ t.audioCues = s.audioCues ∧ t.requests = s.requests

/-- What no instruction reads, no instruction's effect depends on: with `ST`, the latch, `DIRTY`, `load_err` and `FONT`
changed, an instruction that does not set them does the same, and leaves them as they are (R31, R34, R38, R39, R42, R121). -/
def Obligations.UnreadStateDoesNotInfluenceInstructions : Prop :=
  ∀ (i : Instr) (s t : State) (st : Byte) (kedge : Vector Bool 16) (dirty loadErr : Bool) (font : Vector Byte 80),
    (∀ x y n, i ≠ .ldStVx x ∧ i ≠ .ldVxK x ∧ i ≠ .cls ∧ i ≠ .drw x y n) → exec i s = .next t →
    exec i { s with st := st, kedge := kedge, dirty := dirty, loadErr := loadErr, font := font } =
      .next { t with st := st, kedge := kedge, dirty := dirty, loadErr := loadErr, font := font }

/-! ### Invariants -/

/-- Every step, whatever operation it performs, keeps memory in its canonical form. -/
def Obligations.StepKeepsMemoryCanonical : Prop :=
  ∀ s t : State, Memory.wf s.mem = true → step s = .next t → Memory.wf t.mem = true

/-- Every step keeps the fault record in agreement with the run mode: a fault is recorded exactly while the core is halted,
with the word and address that raised it (R262, R264; the spec's decisions D22 and D23). -/
def Obligations.StepKeepsFaultRecordInAgreement : Prop :=
  ∀ s t : State, FaultRecordAgrees s → step s = .next t → FaultRecordAgrees t

/-- The state after reset meets both invariants, and so does a core created with any `FONT`. -/
def Obligations.ResetStateMeetsTheInvariants : Prop :=
  Memory.wf State.reset.mem = true ∧ FaultRecordAgrees State.reset ∧
  ∀ font : Vector Byte 80, Memory.wf (State.created font).mem = true ∧ FaultRecordAgrees (State.created font)

/-! ### Control flow (41_control_flow.md) -/

/-- `1NNN` goes to its address and `BNNN` to its address plus `V[0]`, kept above 0xFFF as it is; the next fetch is at the
target modulo 4096 (R141, R147). -/
def Obligations.JumpsGoToTheirTargets : Prop :=
  ∀ (s : State) (nnn : Addr12),
    EncodedIn (.jp nnn) 0x1000 0xF000 ∧ JumpsTo (.jp nnn) nnn.toNat s ∧
    EncodedIn (.jpV0 nnn) 0xB000 0xF000 ∧ JumpsTo (.jpV0 nnn) (nnn.toNat + (s.reg 0).toNat) s ∧
    (∀ t, exec (.jpV0 nnn) s = .next t →
      fetchWord t = Memory.read s.mem ((nnn.toNat + (s.reg 0).toNat) % 4096) ++
        Memory.read s.mem ((nnn.toNat + (s.reg 0).toNat + 1) % 4096))

/-- The four register skips go 4 on when their condition holds and 2 on otherwise (R143 to R146). -/
def Obligations.RegisterSkipsTestTheirCondition : Prop :=
  ∀ (s : State) (x y : Reg) (nn : Byte),
    EncodedIn (.seImm x nn) 0x3000 0xF000 ∧ SkipsWhen (.seImm x nn) (s.reg x = nn) s ∧
    EncodedIn (.sneImm x nn) 0x4000 0xF000 ∧ SkipsWhen (.sneImm x nn) (s.reg x ≠ nn) s ∧
    EncodedIn (.seReg x y) 0x5000 0xF00F ∧ SkipsWhen (.seReg x y) (s.reg x = s.reg y) s ∧
    EncodedIn (.sneReg x y) 0x9000 0xF00F ∧ SkipsWhen (.sneReg x y) (s.reg x ≠ s.reg y) s

/-- `2NNN` with room on the stack pushes its own address, goes to its target, and changes nothing else (R142; that the entry
is the call site is the spec's decision D21). -/
def Obligations.CallPushesItsAddressAndJumps : Prop :=
  ∀ (s : State) (nnn : Addr12) (h : s.sp.val < 16),
    ∃ t, exec (.call nnn) s = .next t ∧ t = { s with stack := t.stack, sp := t.sp, pc := t.pc } ∧
      t.pc.toNat = nnn.toNat ∧ t.sp.val = s.sp.val + 1 ∧ t.stack[s.sp.val] = s.pc ∧
      (∀ (j : Nat) (hj : j < 16), j ≠ s.sp.val → t.stack[j] = s.stack[j]) ∧ MemorySame s t

/-- `00EE` with an entry on the stack goes two past the popped call site and leaves the entry in place (R140; the spec's
decision D21). -/
def Obligations.ReturnResumesPastTheCallSite : Prop :=
  ∀ (s : State) (h : 0 < s.sp.val),
    ∃ t, exec .ret s = .next t ∧ t = { s with sp := t.sp, pc := t.pc } ∧ t.sp.val = s.sp.val - 1 ∧
      t.pc.toNat = ((s.stack[s.sp.val - 1]'(by omega)).toNat + 2) % 65536 ∧ MemorySame s t

/-- A call and the return that follows it, with whatever the subroutine did to everything but the stack, end two past the
call site with the caller's stack pointer and entries (R140, R142; 95_test_vectors.md S8). -/
def Obligations.CallThenReturnResumesTheCaller : Prop :=
  ∀ (s t u w : State) (nnn : Addr12), s.sp.val < 16 → exec (.call nnn) s = .next t →
    u.stack = t.stack → u.sp = t.sp → exec .ret u = .next w →
    w.pc.toNat = (s.pc.toNat + 2) % 65536 ∧ w.sp = s.sp ∧
    ∀ (j : Nat) (hj : j < s.sp.val), w.stack[j]'(by omega) = s.stack[j]'(by omega)

/-- A call on a full stack raises `StackOverflow` and a return on an empty one `StackUnderflow`, with the stack, `SP` and the
program counter as they were (R261). -/
def Obligations.StackFaultsLeaveTheStack : Prop :=
  (∀ (s : State) (nnn : Addr12), s.sp = 16 → ∃ t, exec (.call nnn) s = .next t ∧
    t.fault.code = .stackOverflow ∧ t.stack = s.stack ∧ t.sp = s.sp ∧ t.pc = s.pc) ∧
  (∀ s : State, s.sp = 0 → ∃ t, exec .ret s = .next t ∧
    t.fault.code = .stackUnderflow ∧ t.stack = s.stack ∧ t.sp = s.sp ∧ t.pc = s.pc)

/-- Fault entry by an instruction records the code, the instruction's word and its address, enters `HALTED` and changes
nothing else; the ports then give the code's number (R260, R262; the spec's decision D22). -/
def Obligations.FaultEntryChangesOnlyRecordAndMode : Prop :=
  (∀ (s : State) (nnn : Addr12), s.sp = 16 → ∃ w : Word, w.toNat = 0x2000 + nnn.toNat ∧
    exec (.call nnn) s = .next { s with fault := ⟨.stackOverflow, w, s.pc⟩, mode := .halted }) ∧
  (∀ s : State, s.sp = 0 →
    exec .ret s = .next { s with fault := ⟨.stackUnderflow, 0x00EE, s.pc⟩, mode := .halted }) ∧
  (∀ (s : State) (w : Word),
    (faultPort { s with fault := ⟨.invalidOpcode, w, s.pc⟩ } = (1, w, s.pc)) ∧
    (faultPort { s with fault := ⟨.stackOverflow, w, s.pc⟩ } = (2, w, s.pc)) ∧
    (faultPort { s with fault := ⟨.stackUnderflow, w, s.pc⟩ } = (3, w, s.pc)))

/-- A `1NNN` to its own address is a fixed point: however many STEPs are issued, nothing changes (R128, which the spec derives
from R141). -/
def Obligations.SelfJumpIsAFixedPoint : Prop :=
  ∀ (s : State) (nnn : Addr12) (n : Nat), Fetching s → decode (wordAtPc s) = .ok (.jp nnn) → s.pc.toNat = nnn.toNat →
    core.run n s = .next s

/-! ### Registers and the ALU (42_alu.md) -/

/-- `6XNN` loads its byte, `7XNN` adds it modulo 2^8 with no flag, and `8XY0` copies a register (R170 to R172). -/
def Obligations.RegisterLoadsAndImmediateAdd : Prop :=
  ∀ (s : State) (x y : Reg) (nn : Byte),
    EncodedIn (.ldImm x nn) 0x6000 0xF000 ∧ WritesOneReg (.ldImm x nn) x nn.toNat s ∧
    EncodedIn (.addImm x nn) 0x7000 0xF000 ∧ WritesOneReg (.addImm x nn) x (((s.reg x).toNat + nn.toNat) % 256) s ∧
    EncodedIn (.ldReg x y) 0x8000 0xF00F ∧ WritesOneReg (.ldReg x y) x (s.reg y).toNat s

/-- The logic operations write bit by bit and leave VF unless it is their destination (R173 to R175; the spec's decision
D12). -/
def Obligations.LogicOperationsLeaveTheFlag : Prop :=
  ∀ (s : State) (x y : Reg),
    WritesOneReg (.orReg x y) x ((s.reg x).toNat ||| (s.reg y).toNat) s ∧
    WritesOneReg (.andReg x y) x ((s.reg x).toNat &&& (s.reg y).toNat) s ∧
    WritesOneReg (.xorReg x y) x ((s.reg x).toNat ^^^ (s.reg y).toNat) s

/-- `8XY4` adds modulo 2^8 with the carry in VF, written last (R176; the order is the spec's decision D11). -/
def Obligations.RegisterAddCarriesIntoTheFlag : Prop :=
  ∀ (s : State) (x y : Reg),
    WritesRegThenFlag (.addReg x y) x (((s.reg x).toNat + (s.reg y).toNat) % 256)
      (if (s.reg x).toNat + (s.reg y).toNat > 255 then 1 else 0) s

/-- `8XY5` and `8XY7` subtract modulo 2^8, one way and the other, with VF 1 exactly when no borrow occurs, written last (R177,
R179; the order is the spec's decision D11). -/
def Obligations.SubtractsSetTheFlagWhenNoBorrow : Prop :=
  ∀ (s : State) (x y : Reg),
    WritesRegThenFlag (.sub x y) x ((256 + (s.reg x).toNat - (s.reg y).toNat) % 256)
      (if (s.reg x).toNat ≥ (s.reg y).toNat then 1 else 0) s ∧
    WritesRegThenFlag (.subn x y) x ((256 + (s.reg y).toNat - (s.reg x).toNat) % 256)
      (if (s.reg y).toNat ≥ (s.reg x).toNat then 1 else 0) s

/-- `8XY6` and `8XYE` shift `V[y]`, not `V[x]`, by one place into `V[x]`, with the bit shifted out in VF, written last (R178,
R180; the order is the spec's decision D11). -/
def Obligations.ShiftsMoveTheYRegister : Prop :=
  ∀ (s : State) (x y : Reg),
    WritesRegThenFlag (.shr x y) x ((s.reg y).toNat / 2) ((s.reg y).toNat % 2) s ∧
    WritesRegThenFlag (.shl x y) x ((s.reg y).toNat * 2 % 256) ((s.reg y).toNat / 128) s

/-- `CXNN` completes, writes its fresh draw masked with `NN` and nothing of the draw outside the mask, and leaves the rest
(R181, the spec's decision D30). The draw is a free value (log entry 2): this holds whatever the draws are. -/
def Obligations.RandomByteStaysUnderItsMask : Prop :=
  ∀ (s : State) (x : Reg) (nn : Byte),
    ∃ t, exec (.rnd x nn) s = .next t ∧ t = { s with v := t.v, pc := t.pc, rndIndex := t.rndIndex } ∧ Advanced s t ∧
      t.reg x = Config.rnd s.rndIndex &&& nn ∧ t.reg x &&& ~~~nn = 0 ∧ t.rndIndex = s.rndIndex + 1 ∧
      (∀ r, r ≠ x → t.reg r = s.reg r) ∧ MemorySame s t

/-! ### The index register and transfers (43_index_memory.md) -/

/-- `ANNN` loads `I`; `FX1E` adds `V[x]` to it modulo 2^16 and sets VF, last, when the unreduced sum exceeds 0xFFF (R200, R201;
the spec's decisions D7, D6 and D11). -/
def Obligations.IndexLoadsAndAdds : Prop :=
  ∀ (s : State) (x : Reg) (nnn : Addr12),
    (∃ t, exec (.ldI nnn) s = .next t ∧ t = { s with index := t.index, pc := t.pc } ∧ Advanced s t ∧
      t.index.toNat = nnn.toNat ∧ MemorySame s t) ∧
    (∃ t, exec (.addIVx x) s = .next t ∧ t = { s with index := t.index, v := t.v, pc := t.pc } ∧ Advanced s t ∧
      t.index.toNat = (s.index.toNat + (s.reg x).toNat) % 65536 ∧
      (∀ r, (t.reg r).toNat =
        if r = 15 then (if s.index.toNat + (s.reg x).toNat > 0xFFF then 1 else 0) else (s.reg r).toNat) ∧
      MemorySame s t)

/-- `FX29` points `I` at the glyph of the low nibble of `V[x]` (R202). -/
def Obligations.GlyphAddressIsFiveTimesTheDigit : Prop :=
  ∀ (s : State) (x : Reg), EncodedIn (.ldFVx x) 0xF029 0xF0FF ∧
    ∃ t, exec (.ldFVx x) s = .next t ∧ t = { s with index := t.index, pc := t.pc } ∧ Advanced s t ∧
      t.index.toNat = 0x000 + 5 * ((s.reg x).toNat % 16) ∧ MemorySame s t

/-- `FX33` stores hundreds, tens and units at `I`, `I + 1` and `I + 2`, each address modulo 4096, and no other byte (R203). -/
def Obligations.DecimalDigitsAreStored : Prop :=
  ∀ (s : State) (x : Reg), Memory.wf s.mem = true → EncodedIn (.ldBVx x) 0xF033 0xF0FF ∧
    ∃ t, exec (.ldBVx x) s = .next t ∧ t = { s with mem := t.mem, pc := t.pc } ∧ Advanced s t ∧
      (Memory.read t.mem (dataAddr s.index 0)).toNat = (s.reg x).toNat / 100 ∧
      (Memory.read t.mem (dataAddr s.index 1)).toNat = (s.reg x).toNat / 10 % 10 ∧
      (Memory.read t.mem (dataAddr s.index 2)).toNat = (s.reg x).toNat % 10 ∧
      MemorySameOutside s.index 3 s t

/-- `FX55` stores `V[0]` to `V[x]` from `I` upward, each address modulo 4096, and no other byte; `I` stays (R204; the last is
the spec's decision D13). -/
def Obligations.RegistersAreStored : Prop :=
  ∀ (s : State) (x : Reg), Memory.wf s.mem = true →
    ∃ t, exec (.ldMemVx x) s = .next t ∧ t = { s with mem := t.mem, pc := t.pc } ∧ Advanced s t ∧
      (∀ k : Reg, k ≤ x → Memory.read t.mem (dataAddr s.index k.val) = s.reg k) ∧
      MemorySameOutside s.index (x.val + 1) s t

/-- `FX65` loads `V[0]` to `V[x]` from `I` upward, each address modulo 4096, and no other register; `I` stays (R205; the last
is the spec's decision D13). -/
def Obligations.RegistersAreLoaded : Prop :=
  ∀ (s : State) (x : Reg),
    ∃ t, exec (.ldVxMem x) s = .next t ∧ t = { s with v := t.v, pc := t.pc } ∧ Advanced s t ∧
      (∀ r : Reg, t.reg r = if r ≤ x then Memory.read s.mem (dataAddr s.index r.val) else s.reg r) ∧ MemorySame s t

/-- Storing registers and then loading as many from the same base gives them back, whatever the registers held in between
(95_test_vectors.md S7). -/
def Obligations.StoreThenLoadGivesTheRegistersBack : Prop :=
  ∀ (s t u w : State) (x : Reg), Memory.wf s.mem = true → exec (.ldMemVx x) s = .next t →
    u.mem = t.mem → u.index = s.index → exec (.ldVxMem x) u = .next w →
    ∀ r : Reg, (r ≤ x → w.reg r = s.reg r) ∧ (¬ r ≤ x → w.reg r = u.reg r)

/-- A store into the bytes of the next instruction takes effect for that instruction (R74, which the spec derives). -/
def Obligations.StoredInstructionIsFetchedNext : Prop :=
  ∀ (s t : State) (x : Reg), Memory.wf s.mem = true → 1 ≤ x.val →
    s.index.toNat % 4096 = (s.pc.toNat + 2) % 4096 → exec (.ldMemVx x) s = .next t →
    wordAtPc t = s.reg 0 ++ s.reg 1

/-! ### The display (44_display.md) -/

/-- `00E0` clears every pixel, sets `DIRTY` whether or not one changed, and leaves VF and the rest (R220; `DIRTY` is the spec's
decision D20). -/
def Obligations.ClearScreenClearsEveryPixel : Prop :=
  ∀ s : State, ∃ t, exec .cls s = .next t ∧ t = { s with fb := t.fb, dirty := true, pc := t.pc } ∧ Advanced s t ∧
    (∀ px py, px < 64 → py < 32 → fbPixel t.fb px py = false) ∧ MemorySame s t

/-- `DXYN` toggles exactly the pixels its 1 bits fall on, with wraparound both ways, and sets VF exactly when one of them was
set; `DIRTY` is set; `N = 0` is the case of no bits (R221; bit order, vertical wrap, `N = 0` and the order of VF are the
spec's decisions D17, D18, D19 and D11). -/
def Obligations.DrawTogglesExactlyTheSpritePixels : Prop :=
  ∀ (s : State) (x y : Reg) (n : Fin 16),
    let lit := SpriteBitAt s (s.reg x).toNat (s.reg y).toNat n.val
    ∃ t, exec (.drw x y n) s = .next t ∧ t = { s with fb := t.fb, v := t.v, dirty := true, pc := t.pc } ∧ Advanced s t ∧
      (∀ px py, px < 64 → py < 32 →
        (lit px py → fbPixel t.fb px py = !fbPixel s.fb px py) ∧ (¬ lit px py → fbPixel t.fb px py = fbPixel s.fb px py)) ∧
      ((∃ px py, lit px py ∧ fbPixel s.fb px py = true) → t.reg 15 = 1) ∧
      ((¬ ∃ px py, lit px py ∧ fbPixel s.fb px py = true) → t.reg 15 = 0) ∧
      (∀ r, r ≠ 15 → t.reg r = s.reg r) ∧ MemorySame s t

/-- Drawing the same sprite twice at the same coordinates restores the framebuffer; on a clear screen, with at least one bit
set, the second draw gives VF = 1 (95_test_vectors.md S5). Neither coordinate is in VF, which the first draw writes. -/
def Obligations.DrawingTwiceRestoresTheScreen : Prop :=
  ∀ (s t u : State) (x y : Reg) (n : Fin 16), x ≠ 15 → y ≠ 15 → exec (.drw x y n) s = .next t →
    exec (.drw x y n) t = .next u →
    u.fb = s.fb ∧
    ((∀ px py, fbPixel s.fb px py = false) → (∃ px py, SpriteBitAt s (s.reg x).toNat (s.reg y).toNat n.val px py) →
      t.reg 15 = 0 ∧ u.reg 15 = 1)

/-- The framebuffer read port gives element `y * 64 + x` of the row-major bit array, and `dirty` gives `DIRTY`; a read
is a function of the state and so changes none (R224). -/
def Obligations.ReadPortIsRowMajor : Prop :=
  ∀ s : State, (∀ a : BitVec 11, fbReadPort s a = fbPixel s.fb (a.toNat % 64) (a.toNat / 64)) ∧
    (∀ px py, px < 64 → py < 32 → fbReadPort s (BitVec.ofNat 11 (py * 64 + px)) = fbPixel s.fb px py) ∧
    dirtyPort s = s.dirty

/-- The other outputs (R121): `mode` is 0, 1 or 2 by the run mode and `mode_reg` the awaited register in `AWAITING_KEY` (R36; the
codes are the spec's decision D22, and elsewhere `mode_reg` is given no value, log entry 8); the fault port is 0, 0, 0 while no
fault is recorded (R37); `load_err` is the stored result, 1 exactly after a LOAD that is too large (R291; decisions D1, D35). -/
def Obligations.OutputPortsGiveModeFaultAndLoadResult : Prop :=
  (∀ s : State, s.mode = .running → (modePort s).toNat = 0) ∧
  (∀ (s : State) (x : Reg), s.mode = .awaitingKey x →
    (modePort s).toNat = 1 ∧ ∃ r, modeRegPort s = some r ∧ r.toNat = x.val) ∧
  (∀ s : State, s.mode = .halted → (modePort s).toNat = 2) ∧
  (∀ s : State, s.fault = .clear → faultPort s = (0, 0, 0)) ∧
  (∀ s : State, loadErrPort s = s.loadErr) ∧
  (∀ (s : State) (rest : List Request) (bytes : List Byte), s.requests = .load bytes :: rest →
    ∃ t, step s = .next t ∧ (loadErrPort t = true ↔ 3584 < bytes.length))

/-- `FX29` and then a five-row `DXYN` on a clear screen draw the glyph of the digit, row `r` from `FONT[5 * d + r]` with bit 7
leftmost, and note no collision, under every `FONT` whose bytes are intact in memory (R45, R202, R221; the parameter is the
spec's decision D29, bit order and vertical wrap its D17 and D18). -/
def Obligations.GlyphIsDrawnFromTheFontset : Prop :=
  ∀ (font : Vector Byte 80) (s t u : State) (x a b : Reg),
    (∀ (k : Nat) (h : k < 80), Memory.read s.mem k = font[k]) → (∀ px py, fbPixel s.fb px py = false) →
    exec (.ldFVx x) s = .next t → exec (.drw a b 5) t = .next u →
    u.reg 15 = 0 ∧
    ∀ (r c : Nat) (hr : r < 5), c < 8 →
      fbPixel u.fb ((s.reg a).toNat + c) ((s.reg b).toNat + r) =
        (font[5 * ((s.reg x).toNat % 16) + r]'(by omega)).getLsbD (7 - c)

/-- ACK clears `DIRTY` and changes nothing else, in every run mode and whatever it was; a later clear or draw sets it again
(R225). -/
def Obligations.AckClearsTheDirtyFlag : Prop :=
  (∀ (s : State) (rest : List Request), s.requests = .ack :: rest →
    step s = .next { s with dirty := false, requests := rest }) ∧
  (∀ s t : State, exec .cls s = .next t → t.dirty = true) ∧
  (∀ (s t : State) (x y : Reg) (n : Fin 16), exec (.drw x y n) s = .next t → t.dirty = true)

/-! ### Keys and timers (45_keys_timers.md, 60_exceptions.md) -/

/-- `EX9E` and `EXA1` skip on the level, down and up, of the key named by the low nibble of `V[x]` (R241, R242; the low nibble is
the spec's decision D14). -/
def Obligations.KeyTestsReadTheLevel : Prop :=
  ∀ (s : State) (x : Reg) (k : Key), k.val = (s.reg x).toNat % 16 →
    SkipsWhen (.skp x) (s.key[k.val] = true) s ∧ SkipsWhen (.sknp x) (s.key[k.val] = false) s

/-- `FX07` reads the delay timer; `FX15` writes it, and the next TICK counts the written value down (R243, R244). -/
def Obligations.DelayTimerIsReadAndWritten : Prop :=
  ∀ (s : State) (x : Reg),
    EncodedIn (.ldVxDt x) 0xF007 0xF0FF ∧ WritesOneReg (.ldVxDt x) x s.dt.toNat s ∧
    EncodedIn (.ldDtVx x) 0xF015 0xF0FF ∧
    ∃ t, exec (.ldDtVx x) s = .next t ∧ t = { s with dt := s.reg x, pc := t.pc } ∧ Advanced s t ∧ MemorySame s t ∧
      (tick t).dt.toNat = (s.reg x).toNat - 1

/-- `FX18` writes the sound timer and emits no cue; the next TICK emits one exactly when 1 was written (R245; the spec's
decision D25). -/
def Obligations.SoundTimerWriteEmitsNoCue : Prop :=
  ∀ (s : State) (x : Reg),
    ∃ t, exec (.ldStVx x) s = .next t ∧ t = { s with st := s.reg x, pc := t.pc } ∧ Advanced s t ∧ MemorySame s t ∧
      (tick t).audioCues = s.audioCues + (if (s.reg x).toNat = 1 then 1 else 0)

/-- `FX0A` clears the latch, starts the wait for its register and leaves the program counter and every other part of the state
(R246; the latch is the spec's decision D15). -/
def Obligations.KeyWaitStartsWithoutAdvancing : Prop :=
  ∀ (s : State) (x : Reg),
    ∃ t, exec (.ldVxK x) s = .next t ∧ t = { s with kedge := t.kedge, mode := .awaitingKey x } ∧
      (∀ k : Key, t.kedge[k.val] = false) ∧ MemorySame s t

/-- The STEP that finds a latched press writes the least such key's index, clears the latch, runs on past the `FX0A` and
executes nothing else (R247; the spec's decision D15). -/
def Obligations.KeyWaitEndsWithTheLeastLatchedKey : Prop :=
  ∀ (s : State) (x : Reg) (k : Key), s.requests = [] → s.mode = .awaitingKey x → s.kedge[k.val] = true →
    (∀ j : Key, j < k → s.kedge[j.val] = false) →
    ∃ t, step s = .next t ∧ t = { s with v := t.v, kedge := t.kedge, mode := .running, pc := t.pc } ∧ Advanced s t ∧
      (t.reg x).toNat = k.val ∧ (∀ r, r ≠ x → t.reg r = s.reg r) ∧ (∀ j : Key, t.kedge[j.val] = false) ∧ MemorySame s t

/-- With no press latched, STEPs and TICKs in any order leave the wait, the registers and the program counter, while every TICK
counts the delay timer down (R247, R248, R277; 95_test_vectors.md S9). -/
def Obligations.KeyWaitHoldsWhileTimersTick : Prop :=
  ∀ (s : State) (x : Reg) (ops : List Request), s.mode = .awaitingKey x → (∀ k : Key, s.kedge[k.val] = false) →
    (∀ r ∈ ops, r = .step ∨ r = .tick) →
    ∃ t, core.run ops.length { s with requests := ops } = .next t ∧
      t = { s with dt := t.dt, st := t.st, audioCues := t.audioCues, requests := [] } ∧
      t.dt.toNat = s.dt.toNat - ops.count .tick ∧ t.st.toNat = s.st.toNat - ops.count .tick

/-- A key pressed after the wait starts ends it at the next STEP, even if it is released before that STEP (R247, R250;
95_test_vectors.md K18). -/
def Obligations.ShortPressEndsTheKeyWait : Prop :=
  ∀ (s : State) (x : Reg) (k : Key), s.mode = .awaitingKey x → (∀ j : Key, s.kedge[j.val] = false) →
    s.key[k.val] = false →
    ∃ t, core.run 3 { s with requests := [.key k true, .key k false, .step] } = .next t ∧
      t.mode = .running ∧ (t.reg x).toNat = k.val ∧ Advanced s t ∧ t.key = s.key

/-- KEY latches a released-to-pressed transition and nothing else, sets the level, and changes nothing more, in every run mode
(R250). -/
def Obligations.KeyOperationLatchesPressEdges : Prop :=
  ∀ (s : State) (rest : List Request) (k : Key) (pressed : Bool), s.requests = .key k pressed :: rest →
    ∃ t, step s = .next t ∧ t = { s with key := t.key, kedge := t.kedge, requests := rest } ∧
      ∀ j : Key,
        (t.key[j.val] = if j = k then pressed else s.key[j.val]) ∧
        (t.kedge[j.val] = if j = k ∧ pressed = true ∧ s.key[j.val] = false then true else s.kedge[j.val])

/-- TICK counts each nonzero timer down by one, emits a cue exactly when `ST` goes from 1 to 0, and changes nothing else, in every
run mode (R270, R277; the spec's decisions D24 and D36). -/
def Obligations.TickCountsTheTimersDown : Prop :=
  ∀ (s : State) (rest : List Request), s.requests = .tick :: rest →
    ∃ t, step s = .next t ∧
      t = { s with dt := t.dt, st := t.st, audioCues := t.audioCues, requests := rest } ∧
      t.dt.toNat = s.dt.toNat - 1 ∧ t.st.toNat = s.st.toNat - 1 ∧
      t.audioCues = s.audioCues + (if s.st.toNat = 1 then 1 else 0)

/-- From `ST = n`, `k` TICKs emit exactly one cue if `1 ≤ n ≤ k` and none otherwise (R271; the spec's decision D25). -/
def Obligations.ExactlyOneCueByTheLastTick : Prop :=
  ∀ (s : State) (k : Nat),
    ∃ t, core.run k { s with requests := List.replicate k .tick } = .next t ∧
      t.st.toNat = s.st.toNat - k ∧ t.dt.toNat = s.dt.toNat - k ∧
      t.audioCues = s.audioCues + (if 1 ≤ s.st.toNat ∧ s.st.toNat ≤ k then 1 else 0)

/-! ### Reset, load and boot (70_reset_and_hazards.md) -/

/-- Every general register, VF included, is 0 after RESET, from any state and in the state the machine starts in (R23). -/
def Obligations.ResetZeroesEveryRegister : Prop :=
  (∀ r : Reg, State.reset.reg r = 0) ∧
  (∀ (s : State) (rest : List Request), s.requests = .reset :: rest →
    ∃ t, step s = .next t ∧ ∀ r : Reg, t.reg r = 0)

/-- The machine's RESET, from any state and under any `FONT`, sets every element to its reset value, emits no cue, and keeps only
what is no state of the core: `FONT`, the draws taken, the cues emitted and the other requests waiting; a core created with any
`FONT` holds the same values, and the state after reset is the one created with the default (R44, R45, R290, R292; the values of
`SP`, `KEDGE`, `DIRTY`, `MODE`, `FAULT` and `load_err`, the parameter and creation by RESET are the spec's decisions D26, D29 and
D34; the four kept fields are the model's own, log entries 1 to 3 and 14). -/
def Obligations.ResetSetsEveryElement : Prop :=
  (∀ (s : State) (rest : List Request), s.requests = .reset :: rest →
    ∃ t, step s = .next t ∧ HoldsResetValues s.font t ∧
      t.rndIndex = s.rndIndex ∧ t.audioCues = s.audioCues ∧ t.requests = rest) ∧
  (∀ font : Vector Byte 80, HoldsResetValues font (State.created font)) ∧
  State.created Config.defaultFont = State.reset

/-- An accepted LOAD writes exactly the program's bytes from 0x200 and clears `load_err`; one of more than 3584 bytes writes
nothing and sets it; nothing else changes (R291; the spec's decisions D27 and D35). -/
def Obligations.LoadWritesTheProgramOrRejectsIt : Prop :=
  ∀ (s : State) (rest : List Request) (bytes : List Byte), Memory.wf s.mem = true → s.requests = .load bytes :: rest →
    (bytes.length ≤ 3584 → ∃ t, step s = .next t ∧ t = { s with mem := t.mem, loadErr := false, requests := rest } ∧
      (∀ (j : Nat) (h : j < bytes.length), Memory.read t.mem (0x200 + j) = bytes[j]) ∧
      (∀ a, a < 0x200 ∨ 0x200 + bytes.length ≤ a → a < 4096 → Memory.read t.mem a = Memory.read s.mem a)) ∧
    (3584 < bytes.length → step s = .next { s with loadErr := true, requests := rest })

/-- After creation with any `FONT` and an accepted LOAD, the first STEP executes the instruction whose word is the
program's first two bytes (R292; the spec's decision D34). -/
def Obligations.LoadedProgramStartsAtItsFirstWord : Prop :=
  ∀ (font : Vector Byte 80) (hi lo : Byte) (bytes : List Byte) (i : Instr), bytes.length ≤ 3582 → decode (hi ++ lo) = .ok i →
    ∃ t, step { State.created font with requests := [.load (hi :: lo :: bytes)] } = .next t ∧ t.pc = 0x200 ∧ step t = exec i t
end

