-- ==== Sys2Proof/Laws/Display.lean ====
section
/-! SUPPORT. The framebuffer: what toggling one pixel does to every pixel. -/

namespace Sys2Proof.Machine

/-- Toggling a pixel toggles that pixel and no other. -/
theorem fbPixel_fbFlip (f : Frame) (x y px py : Nat) :
    fbPixel (fbFlip f x y) px py = (fbPixel f px py ^^ decide (px % 64 = x % 64 ∧ py % 32 = y % 32)) := by
  have hx : x % 64 < 64 := Nat.mod_lt _ (by decide)
  by_cases hy : y % 32 = py % 32
  · simp only [fbPixel, fbFlip, Vector.getElem_set, hy, if_true, BitVec.getLsbD_xor, BitVec.getLsbD_twoPow, hx,
      decide_true, Bool.true_and, and_true, eq_comm]
  · have : ¬ (px % 64 = x % 64 ∧ py % 32 = y % 32) := fun h => hy h.2.symm
    simp [fbPixel, fbFlip, hy, this]

/-- A cleared framebuffer has no pixel set. -/
@[simp] theorem fbPixel_fbClear (x y : Nat) : fbPixel fbClear x y = false := by
  simp [fbPixel, fbClear]

/-! ### Drawing -/

/-- Bit `7 - c` of a sprite row lights column `x0 + c`, for some `c` below `m` (R221). -/
def rowLights (x0 : Nat) (row : Byte) (m px : Nat) : Prop :=
  ∃ c < m, px % 64 = (x0 + c) % 64 ∧ row.getLsbD (7 - c) = true

/-- The first `m` columns of a sprite row, drawn. -/
def drawCols (acc : Frame × Bool) (x0 y : Nat) (row : Byte) (m : Nat) : Frame × Bool :=
  (List.range m).foldl (fun acc c => if row.getLsbD (7 - c) then drawPixel acc (x0 + c) y else acc) acc

theorem drawCols_succ (acc : Frame × Bool) (x0 y : Nat) (row : Byte) (m : Nat) :
    drawCols acc x0 y row (m + 1) =
      if row.getLsbD (7 - m) then drawPixel (drawCols acc x0 y row m) (x0 + m) y else drawCols acc x0 y row m := by
  simp [drawCols, List.range_succ]

/-- Drawing columns of a row toggles exactly the pixels that row lights. -/
theorem fbPixel_drawCols (acc : Frame × Bool) (x0 y : Nat) (row : Byte) (m : Nat) (hm : m ≤ 64) (px py : Nat) :
    (rowLights x0 row m px ∧ py % 32 = y % 32 →
      fbPixel (drawCols acc x0 y row m).1 px py = !fbPixel acc.1 px py) ∧
    (¬ (rowLights x0 row m px ∧ py % 32 = y % 32) →
      fbPixel (drawCols acc x0 y row m).1 px py = fbPixel acc.1 px py) := by
  induction m with
  | zero => exact ⟨fun ⟨⟨c, hc, _⟩, _⟩ => absurd hc (Nat.not_lt_zero c), fun _ => rfl⟩
  | succ m ih =>
    have ih := ih (by omega)
    rw [drawCols_succ]
    by_cases hb : row.getLsbD (7 - m) = true
    · simp only [hb, if_true, drawPixel, fbPixel_fbFlip]
      by_cases hp : px % 64 = (x0 + m) % 64 ∧ py % 32 = y % 32
      · have hnot : ¬ (rowLights x0 row m px ∧ py % 32 = y % 32) := by
          rintro ⟨⟨c, hc, hcx, -⟩, -⟩
          omega
        have hyes : rowLights x0 row (m + 1) px ∧ py % 32 = y % 32 := ⟨⟨m, by omega, hp.1, hb⟩, hp.2⟩
        simp [ih.2 hnot, hyes, hp]
      · have hiff : (rowLights x0 row (m + 1) px ∧ py % 32 = y % 32) ↔ (rowLights x0 row m px ∧ py % 32 = y % 32) := by
          constructor
          · rintro ⟨⟨c, hc, hcx, hcb⟩, hy⟩
            have : c ≠ m := by rintro rfl; exact hp ⟨hcx, hy⟩
            exact ⟨⟨c, by omega, hcx, hcb⟩, hy⟩
          · rintro ⟨⟨c, hc, hcx, hcb⟩, hy⟩
            exact ⟨⟨c, by omega, hcx, hcb⟩, hy⟩
        rw [hiff]
        simpa only [hp, decide_false, Bool.xor_false] using ih
    · have hiff : rowLights x0 row (m + 1) px ↔ rowLights x0 row m px := by
        constructor
        · rintro ⟨c, hc, hcx, hcb⟩
          have : c ≠ m := by rintro rfl; exact hb hcb
          exact ⟨c, by omega, hcx, hcb⟩
        · rintro ⟨c, hc, hcx, hcb⟩
          exact ⟨c, by omega, hcx, hcb⟩
      rw [hiff]
      simpa only [hb, Bool.false_eq_true, if_false] using ih

/-- A collision is noted exactly when a lit column's pixel was set. -/
theorem collided_drawCols (acc : Frame × Bool) (x0 y : Nat) (row : Byte) (m : Nat) (hm : m ≤ 64) :
    (drawCols acc x0 y row m).2 = true ↔
      acc.2 = true ∨ ∃ c < m, row.getLsbD (7 - c) = true ∧ fbPixel acc.1 (x0 + c) y = true := by
  induction m with
  | zero => simp [drawCols]
  | succ m ih =>
    have ih := ih (by omega)
    have hsame : fbPixel (drawCols acc x0 y row m).1 (x0 + m) y = fbPixel acc.1 (x0 + m) y := by
      refine (fbPixel_drawCols acc x0 y row m (by omega) (x0 + m) y).2 ?_
      rintro ⟨⟨c, hc, hcx, -⟩, -⟩
      omega
    have hlast : (∃ c < m + 1, row.getLsbD (7 - c) = true ∧ fbPixel acc.1 (x0 + c) y = true) ↔
        (∃ c < m, row.getLsbD (7 - c) = true ∧ fbPixel acc.1 (x0 + c) y = true) ∨
          (row.getLsbD (7 - m) = true ∧ fbPixel acc.1 (x0 + m) y = true) := by
      constructor
      · rintro ⟨c, hc, h⟩
        by_cases hcm : c = m
        · exact .inr (hcm ▸ h)
        · exact .inl ⟨c, by omega, h⟩
      · rintro (⟨c, hc, h⟩ | h)
        · exact ⟨c, by omega, h⟩
        · exact ⟨m, by omega, h⟩
    rw [drawCols_succ, hlast]
    by_cases hb : row.getLsbD (7 - m) = true
    · simp only [hb, if_true, drawPixel, Bool.or_eq_true, ih, hsame, true_and, or_assoc]
    · simp only [hb, Bool.false_eq_true, if_false, ih, false_and, or_false]

/-- Some row of a sprite lights a pixel (R221). -/
def spriteLights (x0 y0 : Nat) (rows : List Byte) (px py : Nat) : Prop :=
  ∃ r, ∃ h : r < rows.length, py % 32 = (y0 + r) % 32 ∧ rowLights x0 rows[r] 8 px

theorem spriteLights_cons (x0 y0 : Nat) (row : Byte) (rows : List Byte) (px py : Nat) :
    spriteLights x0 y0 (row :: rows) px py ↔
      (rowLights x0 row 8 px ∧ py % 32 = y0 % 32) ∨ spriteLights x0 (y0 + 1) rows px py := by
  constructor
  · rintro ⟨r, h, hy, hl⟩
    cases r with
    | zero => exact .inl ⟨hl, hy⟩
    | succ r => exact .inr ⟨r, by simpa using h, by rw [hy]; congr 1; omega, hl⟩
  · rintro (⟨hl, hy⟩ | ⟨r, h, hy, hl⟩)
    · exact ⟨0, by simp, hy, hl⟩
    · exact ⟨r + 1, by simpa using h, by rw [hy]; congr 1; omega, hl⟩

/-- Drawing a sprite of at most 32 rows toggles exactly the pixels it lights. -/
theorem fbPixel_drawRows (acc : Frame × Bool) (x0 y0 : Nat) (rows : List Byte) (hlen : rows.length ≤ 32) (px py : Nat) :
    (spriteLights x0 y0 rows px py → fbPixel (drawRows acc x0 y0 rows).1 px py = !fbPixel acc.1 px py) ∧
    (¬ spriteLights x0 y0 rows px py → fbPixel (drawRows acc x0 y0 rows).1 px py = fbPixel acc.1 px py) := by
  induction rows generalizing acc y0 with
  | nil => exact ⟨fun ⟨r, h, _⟩ => absurd h (Nat.not_lt_zero r), fun _ => rfl⟩
  | cons row rows ih =>
    simp only [List.length_cons] at hlen
    have ih := ih (drawRow acc x0 y0 row) (y0 + 1) (by omega)
    have hrow := fbPixel_drawCols acc x0 y0 row 8 (by decide) px py
    rw [spriteLights_cons, drawRows]
    by_cases h1 : rowLights x0 row 8 px ∧ py % 32 = y0 % 32
    · have h2 : ¬ spriteLights x0 (y0 + 1) rows px py := by
        rintro ⟨r, h, hy, -⟩
        omega
      exact ⟨fun _ => (ih.2 h2).trans (hrow.1 h1), fun h => absurd (.inl h1) h⟩
    · have hsame : fbPixel (drawRow acc x0 y0 row).1 px py = fbPixel acc.1 px py := hrow.2 h1
      rw [hsame] at ih
      simpa only [h1, false_or] using ih

/-- A sprite of at most 32 rows collides exactly when it lights a pixel that was set. -/
theorem collided_drawRows (acc : Frame × Bool) (x0 y0 : Nat) (rows : List Byte) (hlen : rows.length ≤ 32) :
    (drawRows acc x0 y0 rows).2 = true ↔
      acc.2 = true ∨ ∃ r, ∃ h : r < rows.length, ∃ c < 8,
        (rows[r]).getLsbD (7 - c) = true ∧ fbPixel acc.1 (x0 + c) (y0 + r) = true := by
  induction rows generalizing acc y0 with
  | nil => simp [drawRows]
  | cons row rows ih =>
    simp only [List.length_cons] at hlen
    have hc := collided_drawCols acc x0 y0 row 8 (by decide)
    have hsame : ∀ r < rows.length, ∀ c, fbPixel (drawRow acc x0 y0 row).1 (x0 + c) (y0 + 1 + r) =
        fbPixel acc.1 (x0 + c) (y0 + 1 + r) := by
      intro r hr c
      refine (fbPixel_drawCols acc x0 y0 row 8 (by decide) (x0 + c) (y0 + 1 + r)).2 ?_
      rintro ⟨-, hy⟩
      omega
    rw [drawRows, ih _ _ (by omega), show (drawRow acc x0 y0 row).2 = (drawCols acc x0 y0 row 8).2 from rfl, hc,
      or_assoc]
    refine or_congr_right ?_
    constructor
    · rintro (⟨c, hlt, hb, hp⟩ | ⟨r, h, c, hlt, hb, hp⟩)
      · exact ⟨0, by simp, c, hlt, hb, hp⟩
      · refine ⟨r + 1, by simpa using h, c, hlt, hb, ?_⟩
        rw [hsame r h c] at hp
        rwa [show y0 + (r + 1) = y0 + 1 + r by omega]
    · rintro ⟨r, h, c, hlt, hb, hp⟩
      cases r with
      | zero => exact .inl ⟨c, hlt, hb, hp⟩
      | succ r =>
        have hr : r < rows.length := by simpa using h
        refine .inr ⟨r, hr, c, hlt, hb, ?_⟩
        rw [hsame r hr c]
        rwa [show y0 + 1 + r = y0 + (r + 1) by omega]

end Sys2Proof.Machine
end

