-- ==== Sys2Proof/Laws/Encoding.lean ====
section
/-! SUPPORT. The fields of a word of each format (30_encoding.md R92). -/

namespace Sys2Proof

/-- A format A word as a number. -/
theorem formatA_toNat (op : BitVec 4) (nnn : Addr12) : (formatA op nnn).toNat = op.toNat * 4096 + nnn.toNat := by
  simp only [formatA, BitVec.toNat_append]
  rw [← Nat.shiftLeft_add_eq_or_of_lt (by omega), Nat.shiftLeft_eq]

/-- A format XI word as a number. -/
theorem formatXI_toNat (op : BitVec 4) (x : Reg) (nn : Byte) :
    (formatXI op x nn).toNat = op.toNat * 4096 + x.val * 256 + nn.toNat := by
  simp only [formatXI, BitVec.toNat_append]
  rw [← Nat.shiftLeft_add_eq_or_of_lt (by omega), ← Nat.shiftLeft_add_eq_or_of_lt (by omega)]
  simp only [Nat.shiftLeft_eq, BitVec.toNat_ofFin]
  omega

/-- A format XYN word as a number. -/
theorem formatXYN_toNat (op : BitVec 4) (x y n : Fin 16) :
    (formatXYN op x y n).toNat = op.toNat * 4096 + x.val * 256 + y.val * 16 + n.val := by
  simp only [formatXYN, BitVec.toNat_append]
  rw [← Nat.shiftLeft_add_eq_or_of_lt (by omega), ← Nat.shiftLeft_add_eq_or_of_lt (by omega),
    ← Nat.shiftLeft_add_eq_or_of_lt (by omega)]
  simp only [Nat.shiftLeft_eq, BitVec.toNat_ofFin]
  omega

/-! ### Fixed bits under a row's mask (R92, R94) -/

theorem formatA_mask (op : BitVec 4) (nnn : Addr12) : formatA op nnn &&& 0xF000#16 = formatA op 0 := by
  apply BitVec.eq_of_getLsbD_eq
  intro i hi
  simp only [formatA, BitVec.getLsbD_and, BitVec.getLsbD_append]
  interval_cases i <;> simp

theorem formatXI_mask (op : BitVec 4) (x : Reg) (nn : Byte) : formatXI op x nn &&& 0xF000#16 = formatA op 0 := by
  apply BitVec.eq_of_getLsbD_eq
  intro i hi
  simp only [formatA, formatXI, BitVec.getLsbD_and, BitVec.getLsbD_append]
  interval_cases i <;> simp

theorem formatXF_mask (op : BitVec 4) (x : Reg) (fn : Byte) : formatXI op x fn &&& 0xF0FF#16 = formatXI op 0 fn := by
  apply BitVec.eq_of_getLsbD_eq
  intro i hi
  simp only [formatXI, BitVec.getLsbD_and, BitVec.getLsbD_append]
  interval_cases i <;> simp

theorem formatXYF_mask (op : BitVec 4) (x y n : Fin 16) :
    formatXYN op x y n &&& 0xF00F#16 = formatXYN op 0 0 n := by
  apply BitVec.eq_of_getLsbD_eq
  intro i hi
  simp only [formatXYN, BitVec.getLsbD_and, BitVec.getLsbD_append]
  interval_cases i <;> simp

theorem formatXYN_mask (op : BitVec 4) (x y n : Fin 16) : formatXYN op x y n &&& 0xF000#16 = formatA op 0 := by
  apply BitVec.eq_of_getLsbD_eq
  intro i hi
  simp only [formatA, formatXYN, BitVec.getLsbD_and, BitVec.getLsbD_append]
  interval_cases i <;> simp

/-- A row covers a word whose bits under the row's mask are its pattern. -/
theorem OpcodeRow.covers_of {r : OpcodeRow} {w p : Word} (h : w &&& r.mask = p) (hp : p = r.pattern) :
    r.covers w = true := beq_iff_eq.2 (h.trans hp)

/-! ### Fields as numbers (R7, R91) -/

theorem opField_toNat (w : Word) : (opField w).toNat = w.toNat / 4096 := by
  simp only [opField, BitVec.extractLsb'_toNat, Nat.shiftRight_eq_div_pow]
  omega

theorem xField_val (w : Word) : (xField w).val = w.toNat / 256 % 16 := by
  simp only [xField, BitVec.val_toFin, BitVec.extractLsb'_toNat, Nat.shiftRight_eq_div_pow]

theorem yField_val (w : Word) : (yField w).val = w.toNat / 16 % 16 := by
  simp only [yField, BitVec.val_toFin, BitVec.extractLsb'_toNat, Nat.shiftRight_eq_div_pow]

theorem nField_val (w : Word) : (nField w).val = w.toNat % 16 := by
  simp only [nField, BitVec.val_toFin, BitVec.extractLsb'_toNat, Nat.shiftRight_zero]

theorem nnField_toNat (w : Word) : (nnField w).toNat = w.toNat % 256 := by
  simp only [nnField, BitVec.extractLsb'_toNat, Nat.shiftRight_zero]

theorem nnnField_toNat (w : Word) : (nnnField w).toNat = w.toNat % 4096 := by
  simp only [nnnField, BitVec.extractLsb'_toNat, Nat.shiftRight_zero]

/-! ### The fields of a word of each format are what it was made from -/

theorem fields_formatA (op : BitVec 4) (nnn : Addr12) :
    (opField (formatA op nnn)).toNat = op.toNat ∧ nnnField (formatA op nnn) = nnn := by
  refine ⟨?_, BitVec.eq_of_toNat_eq ?_⟩
  · rw [opField_toNat, formatA_toNat]; omega
  · rw [nnnField_toNat, formatA_toNat]; omega

theorem fields_formatXI (op : BitVec 4) (x : Reg) (nn : Byte) :
    (opField (formatXI op x nn)).toNat = op.toNat ∧ xField (formatXI op x nn) = x ∧ nnField (formatXI op x nn) = nn := by
  have := x.isLt
  refine ⟨?_, Fin.ext ?_, BitVec.eq_of_toNat_eq ?_⟩
  · rw [opField_toNat, formatXI_toNat]; omega
  · rw [xField_val, formatXI_toNat]; omega
  · rw [nnField_toNat, formatXI_toNat]; omega

theorem fields_formatXYN (op : BitVec 4) (x y n : Fin 16) :
    (opField (formatXYN op x y n)).toNat = op.toNat ∧ xField (formatXYN op x y n) = x ∧
      yField (formatXYN op x y n) = y ∧ nField (formatXYN op x y n) = n := by
  have := x.isLt
  have := y.isLt
  have := n.isLt
  refine ⟨?_, Fin.ext ?_, Fin.ext ?_, Fin.ext ?_⟩
  · rw [opField_toNat, formatXYN_toNat]; omega
  · rw [xField_val, formatXYN_toNat]; omega
  · rw [yField_val, formatXYN_toNat]; omega
  · rw [nField_val, formatXYN_toNat]; omega

end Sys2Proof
end

