-- ==== Sys2Proof/Laws/Memory.lean ====
section
/-! SUPPORT. Memory: what a write does to every read, and that every operation keeps the canonical form. -/

namespace Sys2Proof.Machine

/-- An address below the list's least one is unlisted. -/
theorem Memory.lookup_below {m : Memory} {lo a : Nat} (h : Memory.wfFrom lo m = true) (ha : a < lo) :
    Memory.lookup m a = Memory.unlisted a := by
  induction m generalizing lo with
  | nil => rfl
  | cons c m ih =>
    obtain ⟨b, x⟩ := c
    simp only [Memory.wfFrom, Bool.and_eq_true, decide_eq_true_eq] at h
    have hb : a ≠ b := by omega
    simp only [Memory.lookup, hb, if_false]
    exact ih h.2 (by omega)

/-- The canonical form from an address is the canonical form from any lower one. -/
theorem Memory.wfFrom_mono {m : Memory} {lo lo' : Nat} (h : Memory.wfFrom lo m = true) (hl : lo' ≤ lo) :
    Memory.wfFrom lo' m = true := by
  cases m with
  | nil => rfl
  | cons c m =>
    obtain ⟨b, x⟩ := c
    simp only [Memory.wfFrom, Bool.and_eq_true, decide_eq_true_eq] at h ⊢
    exact ⟨⟨⟨by omega, h.1.1.2⟩, h.1.2⟩, h.2⟩

/-- An update keeps the canonical form. -/
theorem Memory.update_wfFrom {m : Memory} {lo a : Nat} {x : Byte} (h : Memory.wfFrom lo m = true) (hl : lo ≤ a)
    (ha : a < Config.memorySize) : Memory.wfFrom lo (Memory.update m a x) = true := by
  induction m generalizing lo with
  | nil =>
    unfold Memory.update
    split
    · rfl
    · simp_all [Memory.wfFrom]
  | cons c m ih =>
    obtain ⟨b, y⟩ := c
    have h0 := h
    simp only [Memory.wfFrom, Bool.and_eq_true, decide_eq_true_eq, bne_iff_ne, ne_eq] at h
    obtain ⟨⟨⟨hlb, hb⟩, hy⟩, hm⟩ := h
    unfold Memory.update
    split
    next hab =>
      split
      · exact h0
      · next hx => simp [Memory.wfFrom, hl, ha, hx, hb, hy, hm]; omega
    next hab =>
      split
      next hab' =>
        subst hab'
        split
        · exact Memory.wfFrom_mono hm (by omega)
        · next hx => simp [Memory.wfFrom, hl, ha, hx, hm]
      next hab' =>
        simp [Memory.wfFrom, hlb, hb, hy, ih hm (by omega)]

/-- What an update does to every cell of a memory in canonical form. -/
theorem Memory.lookup_update {m : Memory} {lo a b : Nat} {x : Byte} (h : Memory.wfFrom lo m = true) :
    Memory.lookup (Memory.update m a x) b = if b = a then x else Memory.lookup m b := by
  induction m generalizing lo with
  | nil =>
    unfold Memory.update
    split
    next hx => by_cases hb : b = a <;> simp [Memory.lookup, hb, hx]
    next hx => by_cases hb : b = a <;> simp [Memory.lookup, hb]
  | cons c m ih =>
    obtain ⟨d, y⟩ := c
    have h0 := h
    simp only [Memory.wfFrom, Bool.and_eq_true, decide_eq_true_eq, bne_iff_ne, ne_eq] at h
    obtain ⟨-, hm⟩ := h
    unfold Memory.update
    split
    next had =>
      have hu : Memory.lookup ((d, y) :: m) a = Memory.unlisted a := by
        have : a ≠ d := by omega
        simp only [Memory.lookup, this, if_false]
        exact Memory.lookup_below hm (by omega)
      split
      next hx =>
        by_cases hb : b = a
        · subst hb; simp [hu, hx]
        · simp [hb]
      next hx => by_cases hb : b = a <;> simp [Memory.lookup, hb]
    next had =>
      split
      next hd =>
        subst hd
        split
        next hx =>
          by_cases hb : b = a
          · subst hb
            simp only [if_true, hx]
            exact Memory.lookup_below hm (by omega)
          · simp [Memory.lookup, hb]
        next hx => by_cases hb : b = a <;> simp [Memory.lookup, hb]
      next hd =>
        by_cases hbd : b = d
        · have : b ≠ a := by omega
          simp [Memory.lookup, hbd]; omega
        · simp [Memory.lookup, hbd, ih hm]

/-! ### Byte accesses -/

/-- A write keeps the canonical form. -/
theorem Memory.write_wf {m : Memory} (h : Memory.wf m = true) (a : Nat) (x : Byte) :
    Memory.wf (Memory.write m a x) = true :=
  Memory.update_wfFrom h (Nat.zero_le _) (Nat.mod_lt _ (by decide))

/-- A byte reads as the last write to its address, taken modulo 4096, left it; every other byte is unchanged. -/
theorem Memory.read_write {m : Memory} (h : Memory.wf m = true) (a b : Nat) (x : Byte) :
    Memory.read (Memory.write m a x) b = if b % 4096 = a % 4096 then x else Memory.read m b :=
  Memory.lookup_update h

/-- An address is taken modulo 4096 (R61). -/
@[simp] theorem Memory.read_mod (m : Memory) (a : Nat) : Memory.read m (a % 4096) = Memory.read m a := by
  simp [Memory.read, Config.memorySize]

/-! ### Transfers -/

/-- A transfer keeps the canonical form. -/
theorem storeBytes_wf {m : Memory} (h : Memory.wf m = true) (base : Word) (k : Nat) (xs : List Byte) :
    Memory.wf (storeBytes m base k xs) = true := by
  induction xs generalizing m k with
  | nil => exact h
  | cons x xs ih => exact ih (Memory.write_wf h _ _) (k + 1)

/-- A byte outside a transfer's addresses is unchanged. -/
theorem read_storeBytes_outside {m : Memory} (h : Memory.wf m = true) (base : Word) (k : Nat) (xs : List Byte) (a : Nat)
    (ha : ∀ j < xs.length, a % 4096 ≠ dataAddr base (k + j)) :
    Memory.read (storeBytes m base k xs) a = Memory.read m a := by
  induction xs generalizing m k with
  | nil => rfl
  | cons x xs ih =>
    have h0 := ha 0 (by simp)
    have hrest : ∀ j < xs.length, a % 4096 ≠ dataAddr base (k + 1 + j) := by
      intro j hj
      have := ha (j + 1) (by simpa using hj)
      rwa [show k + (j + 1) = k + 1 + j by omega] at this
    have hd : dataAddr base k % 4096 = dataAddr base k := Nat.mod_eq_of_lt (Nat.mod_lt _ (by decide))
    rw [storeBytes, ih (Memory.write_wf h _ _) _ hrest, Memory.read_write h]
    simp only [Nat.add_zero] at h0
    simp [hd, h0]

/-- Byte `j` of a transfer of at most 4096 bytes reads as the byte stored there. -/
theorem read_storeBytes_inside {m : Memory} (h : Memory.wf m = true) (base : Word) (k : Nat) (xs : List Byte)
    (hlen : xs.length ≤ 4096) (j : Nat) (hj : j < xs.length) :
    Memory.read (storeBytes m base k xs) (dataAddr base (k + j)) = xs[j] := by
  induction xs generalizing m k j with
  | nil => simp at hj
  | cons x xs ih =>
    have hm : ∀ n, dataAddr base n % 4096 = dataAddr base n := fun n => Nat.mod_eq_of_lt (Nat.mod_lt _ (by decide))
    simp only [List.length_cons] at hlen hj
    cases j with
    | zero =>
      rw [storeBytes, read_storeBytes_outside (Memory.write_wf h _ _), Memory.read_write h]
      · simp
      · intro i hi
        simp only [dataAddr, Config.memorySize, Nat.add_zero]
        omega
    | succ j =>
      have := ih (Memory.write_wf h (dataAddr base k) x) (k + 1) (by omega) j (by omega)
      rw [storeBytes, show k + (j + 1) = k + 1 + j by omega, this]
      simp

/-- The canonical form of memory after RESET, whatever the fontset. -/
theorem resetMemory_wf (font : Vector Byte 80) : Memory.wf (resetMemory font) = true := storeBytes_wf rfl _ _ _

/-- RESET with the default fontset lists nothing: an unlisted address reads as it leaves it. -/
theorem resetMemory_default : resetMemory Config.defaultFont = [] := by decide +kernel

/-- RESET of a state with no request waiting, nothing drawn and no cue emitted is the state after reset. -/
theorem resetWith_default (s : State) (h1 : s.rndIndex = 0) (h2 : s.audioCues = 0) (h3 : s.requests = []) :
    resetWith Config.defaultFont s = State.reset := by
  simp only [resetWith, resetMemory_default, h1, h2, h3]
  rfl

/-- A core created with the default `FONT` is the state after reset. -/
theorem State.created_default : State.created Config.defaultFont = State.reset := resetWith_default _ rfl rfl rfl

end Sys2Proof.Machine
end

