-- ==== Sys2Proof/Laws/State.lean ====
section
/-! SUPPORT. What each update of the state does to each field, and to each register. -/

namespace Sys2Proof.Machine

/-! ### `setReg` -/

@[simp] theorem State.setReg_mem (s : State) (r : Reg) (x : Byte) : (s.setReg r x).mem = s.mem := rfl
@[simp] theorem State.setReg_v (s : State) (r : Reg) (x : Byte) : (s.setReg r x).v = s.v.set r.val x := rfl
@[simp] theorem State.setReg_index (s : State) (r : Reg) (x : Byte) : (s.setReg r x).index = s.index := rfl
@[simp] theorem State.setReg_pc (s : State) (r : Reg) (x : Byte) : (s.setReg r x).pc = s.pc := rfl
@[simp] theorem State.setReg_stack (s : State) (r : Reg) (x : Byte) : (s.setReg r x).stack = s.stack := rfl
@[simp] theorem State.setReg_sp (s : State) (r : Reg) (x : Byte) : (s.setReg r x).sp = s.sp := rfl
@[simp] theorem State.setReg_dt (s : State) (r : Reg) (x : Byte) : (s.setReg r x).dt = s.dt := rfl
@[simp] theorem State.setReg_st (s : State) (r : Reg) (x : Byte) : (s.setReg r x).st = s.st := rfl
@[simp] theorem State.setReg_key (s : State) (r : Reg) (x : Byte) : (s.setReg r x).key = s.key := rfl
@[simp] theorem State.setReg_kedge (s : State) (r : Reg) (x : Byte) : (s.setReg r x).kedge = s.kedge := rfl
@[simp] theorem State.setReg_fb (s : State) (r : Reg) (x : Byte) : (s.setReg r x).fb = s.fb := rfl
@[simp] theorem State.setReg_dirty (s : State) (r : Reg) (x : Byte) : (s.setReg r x).dirty = s.dirty := rfl
@[simp] theorem State.setReg_mode (s : State) (r : Reg) (x : Byte) : (s.setReg r x).mode = s.mode := rfl
@[simp] theorem State.setReg_fault (s : State) (r : Reg) (x : Byte) : (s.setReg r x).fault = s.fault := rfl
@[simp] theorem State.setReg_loadErr (s : State) (r : Reg) (x : Byte) : (s.setReg r x).loadErr = s.loadErr := rfl
@[simp] theorem State.setReg_font (s : State) (r : Reg) (x : Byte) : (s.setReg r x).font = s.font := rfl
@[simp] theorem State.setReg_rndIndex (s : State) (r : Reg) (x : Byte) : (s.setReg r x).rndIndex = s.rndIndex := rfl
@[simp] theorem State.setReg_audioCues (s : State) (r : Reg) (x : Byte) : (s.setReg r x).audioCues = s.audioCues := rfl
@[simp] theorem State.setReg_requests (s : State) (r : Reg) (x : Byte) : (s.setReg r x).requests = s.requests := rfl

/-- Reading a register after a write: the value written to it, and every other register as before. -/
@[simp] theorem State.reg_setReg (s : State) (r q : Reg) (x : Byte) :
    (s.setReg r x).reg q = if q = r then x else s.reg q := by
  simp only [State.reg, State.setReg, Vector.getElem_set, Fin.ext_iff, eq_comm]

/-! ### `setFlag` -/

@[simp] theorem State.setFlag_mem (s : State) (x : Byte) : (s.setFlag x).mem = s.mem := rfl
@[simp] theorem State.setFlag_v (s : State) (x : Byte) : (s.setFlag x).v = s.v.set 15 x := rfl
@[simp] theorem State.setFlag_index (s : State) (x : Byte) : (s.setFlag x).index = s.index := rfl
@[simp] theorem State.setFlag_pc (s : State) (x : Byte) : (s.setFlag x).pc = s.pc := rfl
@[simp] theorem State.setFlag_stack (s : State) (x : Byte) : (s.setFlag x).stack = s.stack := rfl
@[simp] theorem State.setFlag_sp (s : State) (x : Byte) : (s.setFlag x).sp = s.sp := rfl
@[simp] theorem State.setFlag_dt (s : State) (x : Byte) : (s.setFlag x).dt = s.dt := rfl
@[simp] theorem State.setFlag_st (s : State) (x : Byte) : (s.setFlag x).st = s.st := rfl
@[simp] theorem State.setFlag_key (s : State) (x : Byte) : (s.setFlag x).key = s.key := rfl
@[simp] theorem State.setFlag_kedge (s : State) (x : Byte) : (s.setFlag x).kedge = s.kedge := rfl
@[simp] theorem State.setFlag_fb (s : State) (x : Byte) : (s.setFlag x).fb = s.fb := rfl
@[simp] theorem State.setFlag_dirty (s : State) (x : Byte) : (s.setFlag x).dirty = s.dirty := rfl
@[simp] theorem State.setFlag_mode (s : State) (x : Byte) : (s.setFlag x).mode = s.mode := rfl
@[simp] theorem State.setFlag_fault (s : State) (x : Byte) : (s.setFlag x).fault = s.fault := rfl
@[simp] theorem State.setFlag_loadErr (s : State) (x : Byte) : (s.setFlag x).loadErr = s.loadErr := rfl
@[simp] theorem State.setFlag_font (s : State) (x : Byte) : (s.setFlag x).font = s.font := rfl
@[simp] theorem State.setFlag_rndIndex (s : State) (x : Byte) : (s.setFlag x).rndIndex = s.rndIndex := rfl
@[simp] theorem State.setFlag_audioCues (s : State) (x : Byte) : (s.setFlag x).audioCues = s.audioCues := rfl
@[simp] theorem State.setFlag_requests (s : State) (x : Byte) : (s.setFlag x).requests = s.requests := rfl

@[simp] theorem State.reg_setFlag (s : State) (q : Reg) (x : Byte) :
    (s.setFlag x).reg q = if q = 15 then x else s.reg q := s.reg_setReg 15 q x

/-! ### `jump`, `advance` and `skipIf` -/

@[simp] theorem State.jump_mem (s : State) (p : Word) : (s.jump p).mem = s.mem := rfl
@[simp] theorem State.jump_v (s : State) (p : Word) : (s.jump p).v = s.v := rfl
@[simp] theorem State.jump_index (s : State) (p : Word) : (s.jump p).index = s.index := rfl
@[simp] theorem State.jump_pc (s : State) (p : Word) : (s.jump p).pc = p := rfl
@[simp] theorem State.jump_stack (s : State) (p : Word) : (s.jump p).stack = s.stack := rfl
@[simp] theorem State.jump_sp (s : State) (p : Word) : (s.jump p).sp = s.sp := rfl
@[simp] theorem State.jump_dt (s : State) (p : Word) : (s.jump p).dt = s.dt := rfl
@[simp] theorem State.jump_st (s : State) (p : Word) : (s.jump p).st = s.st := rfl
@[simp] theorem State.jump_key (s : State) (p : Word) : (s.jump p).key = s.key := rfl
@[simp] theorem State.jump_kedge (s : State) (p : Word) : (s.jump p).kedge = s.kedge := rfl
@[simp] theorem State.jump_fb (s : State) (p : Word) : (s.jump p).fb = s.fb := rfl
@[simp] theorem State.jump_dirty (s : State) (p : Word) : (s.jump p).dirty = s.dirty := rfl
@[simp] theorem State.jump_mode (s : State) (p : Word) : (s.jump p).mode = s.mode := rfl
@[simp] theorem State.jump_fault (s : State) (p : Word) : (s.jump p).fault = s.fault := rfl
@[simp] theorem State.jump_loadErr (s : State) (p : Word) : (s.jump p).loadErr = s.loadErr := rfl
@[simp] theorem State.jump_font (s : State) (p : Word) : (s.jump p).font = s.font := rfl
@[simp] theorem State.jump_rndIndex (s : State) (p : Word) : (s.jump p).rndIndex = s.rndIndex := rfl
@[simp] theorem State.jump_audioCues (s : State) (p : Word) : (s.jump p).audioCues = s.audioCues := rfl
@[simp] theorem State.jump_requests (s : State) (p : Word) : (s.jump p).requests = s.requests := rfl
@[simp] theorem State.reg_jump (s : State) (q : Reg) (p : Word) : (s.jump p).reg q = s.reg q := rfl

@[simp] theorem State.advance_mem (s : State) : (s.advance).mem = s.mem := rfl
@[simp] theorem State.advance_v (s : State) : (s.advance).v = s.v := rfl
@[simp] theorem State.advance_index (s : State) : (s.advance).index = s.index := rfl
@[simp] theorem State.advance_pc (s : State) : (s.advance).pc = s.pc + 2 := rfl
@[simp] theorem State.advance_stack (s : State) : (s.advance).stack = s.stack := rfl
@[simp] theorem State.advance_sp (s : State) : (s.advance).sp = s.sp := rfl
@[simp] theorem State.advance_dt (s : State) : (s.advance).dt = s.dt := rfl
@[simp] theorem State.advance_st (s : State) : (s.advance).st = s.st := rfl
@[simp] theorem State.advance_key (s : State) : (s.advance).key = s.key := rfl
@[simp] theorem State.advance_kedge (s : State) : (s.advance).kedge = s.kedge := rfl
@[simp] theorem State.advance_fb (s : State) : (s.advance).fb = s.fb := rfl
@[simp] theorem State.advance_dirty (s : State) : (s.advance).dirty = s.dirty := rfl
@[simp] theorem State.advance_mode (s : State) : (s.advance).mode = s.mode := rfl
@[simp] theorem State.advance_fault (s : State) : (s.advance).fault = s.fault := rfl
@[simp] theorem State.advance_loadErr (s : State) : (s.advance).loadErr = s.loadErr := rfl
@[simp] theorem State.advance_font (s : State) : (s.advance).font = s.font := rfl
@[simp] theorem State.advance_rndIndex (s : State) : (s.advance).rndIndex = s.rndIndex := rfl
@[simp] theorem State.advance_audioCues (s : State) : (s.advance).audioCues = s.audioCues := rfl
@[simp] theorem State.advance_requests (s : State) : (s.advance).requests = s.requests := rfl
@[simp] theorem State.reg_advance (s : State) (q : Reg) : (s.advance).reg q = s.reg q := rfl

@[simp] theorem State.skipIf_mem (s : State) (c : Bool) : (s.skipIf c).mem = s.mem := rfl
@[simp] theorem State.skipIf_v (s : State) (c : Bool) : (s.skipIf c).v = s.v := rfl
@[simp] theorem State.skipIf_index (s : State) (c : Bool) : (s.skipIf c).index = s.index := rfl
@[simp] theorem State.skipIf_pc (s : State) (c : Bool) : (s.skipIf c).pc = if c then s.pc + 4 else s.pc + 2 := rfl
@[simp] theorem State.skipIf_stack (s : State) (c : Bool) : (s.skipIf c).stack = s.stack := rfl
@[simp] theorem State.skipIf_sp (s : State) (c : Bool) : (s.skipIf c).sp = s.sp := rfl
@[simp] theorem State.skipIf_dt (s : State) (c : Bool) : (s.skipIf c).dt = s.dt := rfl
@[simp] theorem State.skipIf_st (s : State) (c : Bool) : (s.skipIf c).st = s.st := rfl
@[simp] theorem State.skipIf_key (s : State) (c : Bool) : (s.skipIf c).key = s.key := rfl
@[simp] theorem State.skipIf_kedge (s : State) (c : Bool) : (s.skipIf c).kedge = s.kedge := rfl
@[simp] theorem State.skipIf_fb (s : State) (c : Bool) : (s.skipIf c).fb = s.fb := rfl
@[simp] theorem State.skipIf_dirty (s : State) (c : Bool) : (s.skipIf c).dirty = s.dirty := rfl
@[simp] theorem State.skipIf_mode (s : State) (c : Bool) : (s.skipIf c).mode = s.mode := rfl
@[simp] theorem State.skipIf_fault (s : State) (c : Bool) : (s.skipIf c).fault = s.fault := rfl
@[simp] theorem State.skipIf_loadErr (s : State) (c : Bool) : (s.skipIf c).loadErr = s.loadErr := rfl
@[simp] theorem State.skipIf_font (s : State) (c : Bool) : (s.skipIf c).font = s.font := rfl
@[simp] theorem State.skipIf_rndIndex (s : State) (c : Bool) : (s.skipIf c).rndIndex = s.rndIndex := rfl
@[simp] theorem State.skipIf_audioCues (s : State) (c : Bool) : (s.skipIf c).audioCues = s.audioCues := rfl
@[simp] theorem State.skipIf_requests (s : State) (c : Bool) : (s.skipIf c).requests = s.requests := rfl
@[simp] theorem State.reg_skipIf (s : State) (q : Reg) (c : Bool) : (s.skipIf c).reg q = s.reg q := rfl

/-! ### `raiseFault` -/

@[simp] theorem raiseFault_mem (c : FaultCode) (w : Word) (s : State) : (raiseFault c w s).mem = s.mem := rfl
@[simp] theorem raiseFault_v (c : FaultCode) (w : Word) (s : State) : (raiseFault c w s).v = s.v := rfl
@[simp] theorem raiseFault_index (c : FaultCode) (w : Word) (s : State) : (raiseFault c w s).index = s.index := rfl
@[simp] theorem raiseFault_pc (c : FaultCode) (w : Word) (s : State) : (raiseFault c w s).pc = s.pc := rfl
@[simp] theorem raiseFault_stack (c : FaultCode) (w : Word) (s : State) : (raiseFault c w s).stack = s.stack := rfl
@[simp] theorem raiseFault_sp (c : FaultCode) (w : Word) (s : State) : (raiseFault c w s).sp = s.sp := rfl
@[simp] theorem raiseFault_dt (c : FaultCode) (w : Word) (s : State) : (raiseFault c w s).dt = s.dt := rfl
@[simp] theorem raiseFault_st (c : FaultCode) (w : Word) (s : State) : (raiseFault c w s).st = s.st := rfl
@[simp] theorem raiseFault_key (c : FaultCode) (w : Word) (s : State) : (raiseFault c w s).key = s.key := rfl
@[simp] theorem raiseFault_kedge (c : FaultCode) (w : Word) (s : State) : (raiseFault c w s).kedge = s.kedge := rfl
@[simp] theorem raiseFault_fb (c : FaultCode) (w : Word) (s : State) : (raiseFault c w s).fb = s.fb := rfl
@[simp] theorem raiseFault_dirty (c : FaultCode) (w : Word) (s : State) : (raiseFault c w s).dirty = s.dirty := rfl
@[simp] theorem raiseFault_mode (c : FaultCode) (w : Word) (s : State) : (raiseFault c w s).mode = .halted := rfl
@[simp] theorem raiseFault_fault (c : FaultCode) (w : Word) (s : State) : (raiseFault c w s).fault = ⟨c, w, s.pc⟩ := rfl
@[simp] theorem raiseFault_loadErr (c : FaultCode) (w : Word) (s : State) : (raiseFault c w s).loadErr = s.loadErr := rfl
@[simp] theorem raiseFault_font (c : FaultCode) (w : Word) (s : State) : (raiseFault c w s).font = s.font := rfl
@[simp] theorem raiseFault_rndIndex (c : FaultCode) (w : Word) (s : State) : (raiseFault c w s).rndIndex = s.rndIndex := rfl
@[simp] theorem raiseFault_audioCues (c : FaultCode) (w : Word) (s : State) : (raiseFault c w s).audioCues = s.audioCues := rfl
@[simp] theorem raiseFault_requests (c : FaultCode) (w : Word) (s : State) : (raiseFault c w s).requests = s.requests := rfl
@[simp] theorem reg_raiseFault (c : FaultCode) (w : Word) (s : State) (q : Reg) : (raiseFault c w s).reg q = s.reg q := rfl

/-! ### Registers of a changed state -/

/-- A state's registers depend on its register file alone. -/
theorem State.reg_congr {s t : State} (h : t.v = s.v) (q : Reg) : t.reg q = s.reg q := by simp only [State.reg, h]

/-- Two register files that agree at every register are equal. -/
theorem State.v_ext {s t : State} (h : ∀ q, t.reg q = s.reg q) : t.v = s.v := by
  apply Vector.ext
  intro i hi
  exact h ⟨i, hi⟩

end Sys2Proof.Machine
end

