-- ==== Sys2Proof/Laws/Ops.lean ====
section
/-! SUPPORT. Once for each shared operation, everything it can do: the call stack, the edge latch, the timers, LOAD and RESET. -/

namespace Sys2Proof.Machine

/-- What a push does, or that the stack was full (R29). -/
theorem pushEntry_cases (s : State) (x : Word) :
    (∃ h : s.sp.val < 16, pushEntry s x = some { s with stack := s.stack.set s.sp.val x, sp := ⟨s.sp.val + 1, by omega⟩ }) ∨
    (s.sp = 16 ∧ pushEntry s x = none) := by
  by_cases h : s.sp.val < 16
  · exact .inl ⟨h, by simp [pushEntry, h]⟩
  · refine .inr ⟨?_, by simp [pushEntry, h]⟩
    apply Fin.ext
    show s.sp.val = 16
    omega

/-- What a pop does, or that the stack was empty (R29). -/
theorem popEntry_cases (s : State) :
    (∃ h : 0 < s.sp.val, popEntry s = some (s.stack[s.sp.val - 1]'(by omega), { s with sp := ⟨s.sp.val - 1, by omega⟩ })) ∨
    (s.sp = 0 ∧ popEntry s = none) := by
  by_cases h : 0 < s.sp.val
  · exact .inl ⟨h, by simp [popEntry, h]⟩
  · refine .inr ⟨?_, by simp [popEntry, h]⟩
    apply Fin.ext
    show s.sp.val = 0
    omega

/-- The least latched key, if it is found. -/
theorem leastEdge_some {e : Vector Bool 16} {k : Key} :
    leastEdge e = some k ↔ e[k.val] = true ∧ ∀ j : Key, j < k → e[j.val] = false := by
  unfold leastEdge
  rw [List.find?_eq_some_iff_getElem]
  constructor
  · rintro ⟨hk, i, hi, hik, hlt⟩
    refine ⟨hk, fun j hj => ?_⟩
    have hi' : i = k.val := by
      have := congrArg Fin.val hik
      simpa using this
    have := hlt j.val (by rw [hi']; exact hj)
    simpa using this
  · rintro ⟨hk, hlt⟩
    refine ⟨hk, k.val, by simp, by simp, fun j hj => ?_⟩
    have := hlt ⟨j, by omega⟩ hj
    simpa using this

/-- No key is found exactly when none is latched. -/
theorem leastEdge_none {e : Vector Bool 16} : leastEdge e = none ↔ ∀ k : Key, e[k.val] = false := by
  simp [leastEdge, List.find?_eq_none]

/-- A timer one tick later, as a number. -/
theorem countDown_toNat (t : Byte) : (countDown t).toNat = t.toNat - 1 := by
  unfold countDown
  split
  next h => simp [h]
  next h =>
    have : t.toNat ≠ 0 := fun h0 => h (BitVec.eq_of_toNat_eq (by simpa using h0))
    have := t.isLt
    rw [BitVec.toNat_sub_of_le]
    · simp
    · simp [BitVec.le_def]; omega

/-- The LOAD result tells whether the program was too large (R291). -/
@[simp] theorem loadProgram_loadErr (bytes : List Byte) (s : State) :
    (loadProgram bytes s).loadErr = decide (bytes.length > Config.maxProgram) := by
  unfold loadProgram
  split <;> simp [*]

/-! ### RESET -/

@[simp] theorem resetWith_mem (f : Vector Byte 80) (s : State) : (resetWith f s).mem = resetMemory f := rfl
@[simp] theorem resetWith_font (f : Vector Byte 80) (s : State) : (resetWith f s).font = f := rfl
@[simp] theorem resetWith_rndIndex (f : Vector Byte 80) (s : State) : (resetWith f s).rndIndex = s.rndIndex := rfl
@[simp] theorem resetWith_audioCues (f : Vector Byte 80) (s : State) : (resetWith f s).audioCues = s.audioCues := rfl
@[simp] theorem resetWith_requests (f : Vector Byte 80) (s : State) : (resetWith f s).requests = s.requests := rfl

end Sys2Proof.Machine
end

