-- ==== Sys2Proof/Laws/PerInstr.lean ====
section
/-! SUPPORT. For each instruction, with every operand: its word is one its own row of the opcode map covers (R94). -/

namespace Sys2Proof.Laws.EncodesToItsRow

/-- The row of the opcode map an instruction belongs to covers its word. -/
def Statement (i : Instr) : Prop := (rowOf i).covers (encode i) = true

theorem cls : Statement (.cls) := OpcodeRow.covers_of rfl rfl
theorem ret : Statement (.ret) := OpcodeRow.covers_of rfl rfl
theorem jp (nnn : Addr12) : Statement (.jp nnn) := OpcodeRow.covers_of (formatA_mask _ nnn) rfl
theorem call (nnn : Addr12) : Statement (.call nnn) := OpcodeRow.covers_of (formatA_mask _ nnn) rfl
theorem seImm (x : Reg) (nn : Byte) : Statement (.seImm x nn) := OpcodeRow.covers_of (formatXI_mask _ x nn) rfl
theorem sneImm (x : Reg) (nn : Byte) : Statement (.sneImm x nn) := OpcodeRow.covers_of (formatXI_mask _ x nn) rfl
theorem seReg (x y : Reg) : Statement (.seReg x y) := OpcodeRow.covers_of (formatXYF_mask _ x y _) rfl
theorem ldImm (x : Reg) (nn : Byte) : Statement (.ldImm x nn) := OpcodeRow.covers_of (formatXI_mask _ x nn) rfl
theorem addImm (x : Reg) (nn : Byte) : Statement (.addImm x nn) := OpcodeRow.covers_of (formatXI_mask _ x nn) rfl
theorem ldReg (x y : Reg) : Statement (.ldReg x y) := OpcodeRow.covers_of (formatXYF_mask _ x y _) rfl
theorem orReg (x y : Reg) : Statement (.orReg x y) := OpcodeRow.covers_of (formatXYF_mask _ x y _) rfl
theorem andReg (x y : Reg) : Statement (.andReg x y) := OpcodeRow.covers_of (formatXYF_mask _ x y _) rfl
theorem xorReg (x y : Reg) : Statement (.xorReg x y) := OpcodeRow.covers_of (formatXYF_mask _ x y _) rfl
theorem addReg (x y : Reg) : Statement (.addReg x y) := OpcodeRow.covers_of (formatXYF_mask _ x y _) rfl
theorem sub (x y : Reg) : Statement (.sub x y) := OpcodeRow.covers_of (formatXYF_mask _ x y _) rfl
theorem shr (x y : Reg) : Statement (.shr x y) := OpcodeRow.covers_of (formatXYF_mask _ x y _) rfl
theorem subn (x y : Reg) : Statement (.subn x y) := OpcodeRow.covers_of (formatXYF_mask _ x y _) rfl
theorem shl (x y : Reg) : Statement (.shl x y) := OpcodeRow.covers_of (formatXYF_mask _ x y _) rfl
theorem sneReg (x y : Reg) : Statement (.sneReg x y) := OpcodeRow.covers_of (formatXYF_mask _ x y _) rfl
theorem ldI (nnn : Addr12) : Statement (.ldI nnn) := OpcodeRow.covers_of (formatA_mask _ nnn) rfl
theorem jpV0 (nnn : Addr12) : Statement (.jpV0 nnn) := OpcodeRow.covers_of (formatA_mask _ nnn) rfl
theorem rnd (x : Reg) (nn : Byte) : Statement (.rnd x nn) := OpcodeRow.covers_of (formatXI_mask _ x nn) rfl
theorem drw (x y : Reg) (n : Fin 16) : Statement (.drw x y n) := OpcodeRow.covers_of (formatXYN_mask _ x y n) rfl
theorem skp (x : Reg) : Statement (.skp x) := OpcodeRow.covers_of (formatXF_mask _ x _) rfl
theorem sknp (x : Reg) : Statement (.sknp x) := OpcodeRow.covers_of (formatXF_mask _ x _) rfl
theorem ldVxDt (x : Reg) : Statement (.ldVxDt x) := OpcodeRow.covers_of (formatXF_mask _ x _) rfl
theorem ldVxK (x : Reg) : Statement (.ldVxK x) := OpcodeRow.covers_of (formatXF_mask _ x _) rfl
theorem ldDtVx (x : Reg) : Statement (.ldDtVx x) := OpcodeRow.covers_of (formatXF_mask _ x _) rfl
theorem ldStVx (x : Reg) : Statement (.ldStVx x) := OpcodeRow.covers_of (formatXF_mask _ x _) rfl
theorem addIVx (x : Reg) : Statement (.addIVx x) := OpcodeRow.covers_of (formatXF_mask _ x _) rfl
theorem ldFVx (x : Reg) : Statement (.ldFVx x) := OpcodeRow.covers_of (formatXF_mask _ x _) rfl
theorem ldBVx (x : Reg) : Statement (.ldBVx x) := OpcodeRow.covers_of (formatXF_mask _ x _) rfl
theorem ldMemVx (x : Reg) : Statement (.ldMemVx x) := OpcodeRow.covers_of (formatXF_mask _ x _) rfl
theorem ldVxMem (x : Reg) : Statement (.ldVxMem x) := OpcodeRow.covers_of (formatXF_mask _ x _) rfl

end Sys2Proof.Laws.EncodesToItsRow
end

