-- ==== Sys2Proof/Laws/Step.lean ====
section
/-! SUPPORT. Everything a step, a STEP operation and an instruction can do, once. -/

namespace Sys2Proof.Machine

/-- The fetched word is the two bytes at the program counter (R62). -/
theorem fetchWord_eq (s : State) : fetchWord s = wordAtPc s := by
  simp [fetchWord, wordAtPc, loadByte, dataAddr, Config.memorySize, Memory.read]

/-- A running core with no request waiting executes one instruction. -/
theorem step_fetching {s : State} (h : Fetching s) : step s = runOneInstruction s := by
  simp [step, serve, stepOperation, h.1, h.2]

/-- A step is the STEP operation, or the performing of the oldest request. -/
theorem step_cases {s t : State} (h : step s = .next t) :
    (s.requests = [] ∧ stepOperation s = .next t) ∨
      ∃ r rest, s.requests = r :: rest ∧ perform r { s with requests := rest } = .next t := by
  unfold step serve at h
  split at h
  next hr => exact .inl ⟨hr, h⟩
  next r rest hr => exact .inr ⟨r, rest, hr, h⟩

/-- A STEP by run mode: nothing, a poll, an instruction or an invalid word's fault. -/
theorem stepOperation_cases {s t : State} (h : stepOperation s = .next t) :
    (s.mode = .halted ∧ t = s) ∨ (∃ x, s.mode = .awaitingKey x ∧ t = keyWaitPoll x s) ∨
    (s.mode = .running ∧ ∃ i, decode (fetchWord s) = .ok i ∧ exec i s = .next t) ∨
    (s.mode = .running ∧ ∃ e, decode (fetchWord s) = .error e ∧ t = raiseFault .invalidOpcode (fetchWord s) s) := by
  unfold stepOperation at h
  split at h
  next hm =>
    unfold runOneInstruction at h
    split at h
    next i hd => exact .inr (.inr (.inl ⟨hm, i, hd, h⟩))
    next e hd => cases h; exact .inr (.inr (.inr ⟨hm, e, hd, rfl⟩))
  next x hm => cases h; exact .inr (.inl ⟨x, hm, rfl⟩)
  next hm => cases h; exact .inl ⟨hm, rfl⟩

/-- A poll of the wait: the least latched key is written, or nothing changes (R247). -/
theorem keyWaitPoll_cases (x : Reg) (s : State) :
    (∃ k, leastEdge s.kedge = some k ∧ keyWaitPoll x s =
      ({ s with kedge := noEdges, mode := .running }.setReg x (BitVec.ofNat 8 k.val)).advance) ∨
    (leastEdge s.kedge = none ∧ keyWaitPoll x s = s) := by
  unfold keyWaitPoll
  split
  next k hk => exact .inl ⟨k, hk, rfl⟩
  next hk => exact .inr ⟨hk, rfl⟩

/-- A return pops, or faults on the empty stack (R140). -/
theorem execRet_cases (s : State) :
    (∃ h : 0 < s.sp.val, execRet s = .next (State.jump { s with sp := ⟨s.sp.val - 1, by omega⟩ }
      ((s.stack[s.sp.val - 1]'(by omega)) + 2))) ∨
    (s.sp = 0 ∧ execRet s = .next (raiseFault .stackUnderflow (encode .ret) s)) := by
  obtain ⟨h, hp⟩ | ⟨h, hp⟩ := popEntry_cases s
  · exact .inl ⟨h, by simp only [execRet, hp]⟩
  · exact .inr ⟨h, by simp only [execRet, hp]⟩

/-- A call pushes and jumps, or faults on the full stack (R142). -/
theorem execCall_cases (nnn : Addr12) (s : State) :
    (∃ h : s.sp.val < 16, execCall nnn s = .next (State.jump
      { s with stack := s.stack.set s.sp.val s.pc, sp := ⟨s.sp.val + 1, by omega⟩ } (address nnn))) ∨
    (s.sp = 16 ∧ execCall nnn s = .next (raiseFault .stackOverflow (encode (.call nnn)) s)) := by
  obtain ⟨h, hp⟩ | ⟨h, hp⟩ := pushEntry_cases s s.pc
  · exact .inl ⟨h, by simp only [execCall, hp]⟩
  · exact .inr ⟨h, by simp only [execCall, hp]⟩

/-- What an instruction does to the run mode and the fault record: nothing, the start of a key wait, or a stack fault. -/
theorem exec_mode_cases {i : Instr} {s t : State} (h : exec i s = .next t) :
    (t.mode = s.mode ∧ t.fault = s.fault) ∨ (∃ x, i = .ldVxK x ∧ t.mode = .awaitingKey x ∧ t.fault = s.fault) ∨
    (∃ n, i = .call n ∧ s.sp = 16 ∧ t = raiseFault .stackOverflow (encode (.call n)) s) ∨
    (i = .ret ∧ s.sp = 0 ∧ t = raiseFault .stackUnderflow (encode .ret) s) := by
  cases i
  case ret =>
    obtain ⟨hs, hp⟩ | ⟨hs, hp⟩ := execRet_cases s <;> simp only [exec, hp] at h <;> cases h
    · exact .inl ⟨rfl, rfl⟩
    · exact .inr (.inr (.inr ⟨rfl, hs, rfl⟩))
  case call n =>
    obtain ⟨hs, hp⟩ | ⟨hs, hp⟩ := execCall_cases n s <;> simp only [exec, hp] at h <;> cases h
    · exact .inl ⟨rfl, rfl⟩
    · exact .inr (.inr (.inl ⟨n, rfl, hs, rfl⟩))
  case ldVxK x => cases h; exact .inr (.inl ⟨x, rfl, rfl, rfl⟩)
  all_goals cases h; exact .inl ⟨rfl, rfl⟩

/-! ### Operands as numbers -/

theorem address_toNat (nnn : Addr12) : (address nnn).toNat = nnn.toNat := by
  simp only [address, BitVec.toNat_setWidth]
  omega

theorem flagByte_toNat (c : Bool) : (flagByte c).toNat = if c then 1 else 0 := by cases c <;> rfl

theorem regsUpTo_length (s : State) (x : Reg) : (regsUpTo s x).length = x.val + 1 := by
  simp only [regsUpTo, List.length_take, Vector.length_toList]
  omega

theorem regsUpTo_getElem (s : State) (x k : Reg) (h : k.val < (regsUpTo s x).length) :
    (regsUpTo s x)[k.val] = s.reg k := by simp [regsUpTo, State.reg]

theorem spriteRows_length (s : State) (n : Nat) : (spriteRows s n).length = n := by simp [spriteRows]

end Sys2Proof.Machine
end

