-- ==== Sys2Proof/Tests/Slice0.lean ====
section
/-! SUPPORT. The model's own tests. Words are written out from 30_encoding.md R94 and expected results are the vectors of
95_test_vectors.md (named in each comment), neither from the model. Then a witness for each statement that has hypotheses. -/

namespace Sys2Proof.Tests

open Sys2Proof.Machine

/-! ### Words the well-formedness checks refuse, and their neighbours they accept (vectors E2 to E10) -/

theorem test_wordWellFormed_family0 :
    wordWellFormed 0x00E1#16 = false ∧ wordWellFormed 0x0123#16 = false ∧ wordWellFormed 0x0000#16 = false ∧
    wordWellFormed 0x00E0#16 = true ∧ wordWellFormed 0x00EE#16 = true := by decide
theorem test_wordWellFormed_family5 : wordWellFormed 0x5121#16 = false ∧ wordWellFormed 0x5120#16 = true := by decide
theorem test_wordWellFormed_family9 : wordWellFormed 0x912F#16 = false ∧ wordWellFormed 0x9120#16 = true := by decide
theorem test_wordWellFormed_family8 :
    wordWellFormed 0x8008#16 = false ∧ wordWellFormed 0x800F#16 = false ∧ wordWellFormed 0x800D#16 = false ∧
    wordWellFormed 0x8007#16 = true ∧ wordWellFormed 0x800E#16 = true := by decide
theorem test_wordWellFormed_familyE : wordWellFormed 0xE09F#16 = false ∧ wordWellFormed 0xE09E#16 = true := by decide
theorem test_wordWellFormed_familyF :
    wordWellFormed 0xF000#16 = false ∧ wordWellFormed 0xF0FF#16 = false ∧ wordWellFormed 0xF065#16 = true := by decide

/-! ### Decoding, every constructor by a word written out -/

theorem test_decode_cls : decode 0b0000000011100000#16 = .ok .cls := by decide
theorem test_decode_ret : decode 0b0000000011101110#16 = .ok .ret := by decide
theorem test_decode_jp : decode 0b0001101010111100#16 = .ok (.jp 0xABC) := by decide
theorem test_decode_call : decode 0b0010001100000001#16 = .ok (.call 0x301) := by decide
theorem test_decode_seImm : decode 0b0011001101000010#16 = .ok (.seImm 3 0x42) := by decide
theorem test_decode_sneImm : decode 0b0100001101000011#16 = .ok (.sneImm 3 0x43) := by decide
theorem test_decode_seReg : decode 0b0101000100100000#16 = .ok (.seReg 1 2) := by decide
theorem test_decode_ldImm : decode 0b0110101001000010#16 = .ok (.ldImm 0xA 0x42) := by decide
theorem test_decode_addImm : decode 0b0111111100000001#16 = .ok (.addImm 0xF 1) := by decide
theorem test_decode_ldReg : decode 0b1000000100100000#16 = .ok (.ldReg 1 2) := by decide
theorem test_decode_orReg : decode 0b1000000100100001#16 = .ok (.orReg 1 2) := by decide
theorem test_decode_andReg : decode 0b1000000100100010#16 = .ok (.andReg 1 2) := by decide
theorem test_decode_xorReg : decode 0b1000000100100011#16 = .ok (.xorReg 1 2) := by decide
theorem test_decode_addReg : decode 0b1000111100010100#16 = .ok (.addReg 0xF 1) := by decide
theorem test_decode_sub : decode 0b1000000100100101#16 = .ok (.sub 1 2) := by decide
theorem test_decode_shr : decode 0b1000000100100110#16 = .ok (.shr 1 2) := by decide
theorem test_decode_subn : decode 0b1000000100100111#16 = .ok (.subn 1 2) := by decide
theorem test_decode_shl : decode 0b1000000011111110#16 = .ok (.shl 0 0xF) := by decide
theorem test_decode_sneReg : decode 0b1001000100100000#16 = .ok (.sneReg 1 2) := by decide
theorem test_decode_ldI : decode 0b1010111111111111#16 = .ok (.ldI 0xFFF) := by decide
theorem test_decode_jpV0 : decode 0b1011001100000000#16 = .ok (.jpV0 0x300) := by decide
theorem test_decode_rnd : decode 0b1100000111111111#16 = .ok (.rnd 1 0xFF) := by decide
theorem test_decode_drw : decode 0b1101000100100101#16 = .ok (.drw 1 2 5) := by decide
theorem test_decode_skp : decode 0b1110010110011110#16 = .ok (.skp 5) := by decide
theorem test_decode_sknp : decode 0b1110010110100001#16 = .ok (.sknp 5) := by decide
theorem test_decode_ldVxDt : decode 0b1111001000000111#16 = .ok (.ldVxDt 2) := by decide
theorem test_decode_ldVxK : decode 0b1111001100001010#16 = .ok (.ldVxK 3) := by decide
theorem test_decode_ldDtVx : decode 0b1111000100010101#16 = .ok (.ldDtVx 1) := by decide
theorem test_decode_ldStVx : decode 0b1111000100011000#16 = .ok (.ldStVx 1) := by decide
theorem test_decode_addIVx : decode 0b1111111100011110#16 = .ok (.addIVx 0xF) := by decide
theorem test_decode_ldFVx : decode 0b1111000000101001#16 = .ok (.ldFVx 0) := by decide
theorem test_decode_ldBVx : decode 0b1111000000110011#16 = .ok (.ldBVx 0) := by decide
theorem test_decode_ldMemVx : decode 0b1111001101010101#16 = .ok (.ldMemVx 3) := by decide
theorem test_decode_ldVxMem : decode 0b1111111101100101#16 = .ok (.ldVxMem 0xF) := by decide
theorem test_decode_rejects_by_name :
    decode 0x0123#16 = .error .family0 ∧ decode 0x5121#16 = .error .skipNibble ∧ decode 0x8008#16 = .error .aluNibble ∧
    decode 0xE09F#16 = .error .keyByte ∧ decode 0xF0FF#16 = .error .miscByte ∧
    decodeBytes [0x12] = .error .tooShort := by decide
theorem test_decodeTableWord : decodeTableWord 16 0x8124 = some (.addReg 1 2) ∧ decodeTableWord 16 0x8128 = none := by
  decide

/-! ### One step on a small state -/

/-- The step fetches and runs a word, and the state after it has a property. -/
def runs (w : Nat) (s : State) (p : State → Bool) : Bool :=
  match step (s.withFetchWord 16 w) with
  | .next t => p t
  | .fault _ => false
  | .refused _ => false

/-- The state after reset with values in some registers. -/
def withRegs (rs : List (Reg × Byte)) : State := rs.foldl (fun s r => s.setReg r.1 r.2) State.reset

/-- The state after reset with `I` and bytes stored there. -/
def withBytes (i : Word) (bytes : List Byte) : State :=
  { State.reset with index := i, mem := storeBytes [] i 0 bytes }

/-- D1 -/
theorem test_cls : runs 0x00E0 { State.reset with fb := Vector.replicate 32 5, dirty := false }
    (fun t => !fbPixel t.fb 0 3 && t.dirty && t.pc == 0x202) = true := by decide
/-- F5 -/
theorem test_ret : runs 0x00EE { State.reset with sp := 1, stack := State.reset.stack.set 0 0x204, pc := 0x212 }
    (fun t => t.sp == 0 && t.pc == 0x206 && t.stack[0] == 0x204) = true := by decide
/-- F6 -/
theorem test_ret_underflow : runs 0x00EE State.reset
    (fun t => t.fault == ⟨.stackUnderflow, 0x00EE, 0x200⟩ && t.mode == .halted && t.pc == 0x200) = true := by decide
/-- F1 -/
theorem test_jp : runs 0x1ABC State.reset (fun t => t.pc == 0xABC) = true := by decide
/-- F3 -/
theorem test_call : runs 0x2ABC State.reset (fun t => t.stack[0] == 0x200 && t.sp == 1 && t.pc == 0xABC) = true := by
  decide
/-- F4 -/
theorem test_call_overflow : runs 0x2ABC { State.reset with sp := 16 }
    (fun t => t.fault == ⟨.stackOverflow, 0x2ABC, 0x200⟩ && t.mode == .halted && t.sp == 16) = true := by decide
/-- F8 -/
theorem test_seImm : runs 0x3342 (withRegs [(3, 0x42)]) (fun t => t.pc == 0x204) = true := by decide
/-- F19: the skip is kept above 0xFFF -/
theorem test_seImm_top : runs 0x3000 { State.reset with pc := 0xFFE } (fun t => t.pc == 0x1002) = true := by decide
/-- F10, F11 -/
theorem test_sneImm : (runs 0x4342 (withRegs [(3, 0x42)]) (fun t => t.pc == 0x202) &&
    runs 0x4343 (withRegs [(3, 0x42)]) (fun t => t.pc == 0x204)) = true := by decide
/-- F12, F13 -/
theorem test_seReg : (runs 0x5120 (withRegs [(1, 0x33), (2, 0x33)]) (fun t => t.pc == 0x204) &&
    runs 0x5120 (withRegs [(1, 0x33), (2, 0x34)]) (fun t => t.pc == 0x202)) = true := by decide
/-- F14, F15 -/
theorem test_sneReg : (runs 0x9120 (withRegs [(1, 0x33), (2, 0x34)]) (fun t => t.pc == 0x204) &&
    runs 0x9120 (withRegs [(1, 0x33), (2, 0x33)]) (fun t => t.pc == 0x202)) = true := by decide
/-- F18, F20 -/
theorem test_jpV0 : (runs 0xBFFF (withRegs [(0, 0xFF)]) (fun t => t.pc == 0x10FE) &&
    runs 0xB300 (withRegs [(0, 0x10), (5, 0x99)]) (fun t => t.pc == 0x310)) = true := by decide
/-- A1 -/
theorem test_ldImm : runs 0x6A42 State.reset (fun t => t.reg 0xA == 0x42 && t.pc == 0x202) = true := by decide
/-- A4 -/
theorem test_addImm : runs 0x7301 (withRegs [(3, 0xFF)]) (fun t => t.reg 3 == 0 && t.reg 0xF == 0) = true := by decide
/-- A6 -/
theorem test_ldReg : runs 0x8120 (withRegs [(2, 0x7E)]) (fun t => t.reg 1 == 0x7E && t.reg 2 == 0x7E) = true := by decide
/-- A7 -/
theorem test_orReg : runs 0x8121 (withRegs [(1, 0xF0), (2, 0x0F), (0xF, 0x77)])
    (fun t => t.reg 1 == 0xFF && t.reg 0xF == 0x77) = true := by decide
/-- A8 -/
theorem test_andReg : runs 0x8122 (withRegs [(1, 0xF0), (2, 0x3C), (0xF, 0x77)])
    (fun t => t.reg 1 == 0x30 && t.reg 0xF == 0x77) = true := by decide
/-- A9 -/
theorem test_xorReg : runs 0x8123 (withRegs [(1, 0xF0), (2, 0x3C), (0xF, 0x77)])
    (fun t => t.reg 1 == 0xCC && t.reg 0xF == 0x77) = true := by decide
/-- S1 -/
theorem test_addReg : runs 0x8124 (withRegs [(1, 0xFF), (2, 0x01)]) (fun t => t.reg 1 == 0 && t.reg 0xF == 1) = true := by
  decide
/-- A14: the flag overwrites the sum -/
theorem test_addReg_vf : runs 0x8F14 (withRegs [(0xF, 0x10), (1, 0xF0)]) (fun t => t.reg 0xF == 1) = true := by decide
/-- S2 -/
theorem test_sub_borrow : runs 0x8125 (withRegs [(1, 0x01), (2, 0x02)])
    (fun t => t.reg 1 == 0xFF && t.reg 0xF == 0) = true := by decide
/-- A16: equal operands do not borrow -/
theorem test_sub_equal : runs 0x8125 (withRegs [(1, 0x05), (2, 0x05)])
    (fun t => t.reg 1 == 0 && t.reg 0xF == 1) = true := by decide
/-- S4: the operand is `V[y]` -/
theorem test_shr : runs 0x8126 (withRegs [(1, 0xAA), (2, 0x03)])
    (fun t => t.reg 1 == 0x01 && t.reg 0xF == 1 && t.reg 2 == 0x03) = true := by decide
/-- A22 -/
theorem test_shr_vf : runs 0x8F16 (withRegs [(1, 0x02)]) (fun t => t.reg 0xF == 0) = true := by decide
/-- A23, A24 -/
theorem test_subn : (runs 0x8127 (withRegs [(1, 0x01), (2, 0x02)]) (fun t => t.reg 1 == 0x01 && t.reg 0xF == 1) &&
    runs 0x8127 (withRegs [(1, 0x02), (2, 0x01)]) (fun t => t.reg 1 == 0xFF && t.reg 0xF == 0)) = true := by decide
/-- A28 -/
theorem test_shl : runs 0x812E (withRegs [(2, 0xFF)]) (fun t => t.reg 1 == 0xFE && t.reg 0xF == 1) = true := by decide
/-- A29: VF is read before it takes the flag -/
theorem test_shl_vf : runs 0x80FE (withRegs [(0xF, 0x81)]) (fun t => t.reg 0 == 0x02 && t.reg 0xF == 1) = true := by
  decide
/-- M2 -/
theorem test_ldI : runs 0xAFFF State.reset (fun t => t.index == 0xFFF) = true := by decide
/-- M5: the flag is of the unreduced sum -/
theorem test_addIVx : runs 0xF01E { withRegs [(0, 0x02)] with index := 0xFFFF }
    (fun t => t.index == 0x0001 && t.reg 0xF == 1) = true := by decide
/-- M6: VF is the addend, then the flag -/
theorem test_addIVx_vf : runs 0xFF1E { withRegs [(0xF, 0x05)] with index := 0x0100 }
    (fun t => t.index == 0x0105 && t.reg 0xF == 0) = true := by decide
/-- M9 -/
theorem test_ldFVx : runs 0xF029 (withRegs [(0, 0x1F)]) (fun t => t.index == 0x04B) = true := by decide
/-- M14: a transfer past 0xFFF goes on at 0x000 -/
theorem test_ldBVx : runs 0xF033 { withRegs [(0, 123)] with index := 0xFFF }
    (fun t => Memory.read t.mem 0xFFF == 1 && Memory.read t.mem 0 == 2 && Memory.read t.mem 1 == 3) = true := by decide
/-- M17 -/
theorem test_ldMemVx : runs 0xF255 { withRegs [(0, 0x11), (1, 0x22), (2, 0x33), (3, 0x44)] with index := 0xFFE }
    (fun t => Memory.read t.mem 0xFFE == 0x11 && Memory.read t.mem 0xFFF == 0x22 && Memory.read t.mem 0 == 0x33 &&
      Memory.read t.mem 1 == 0x90 && t.index == 0xFFE) = true := by decide
/-- M19: glyph 0 of the default `FONT` -/
theorem test_ldVxMem : runs 0xF465 State.reset
    (fun t => t.v.toList.take 6 == [0xF0, 0x90, 0x90, 0x90, 0xF0, 0x00]) = true := by decide
/-- A31: whatever the draw -/
theorem test_rnd_masked : ∀ b : Byte, b &&& 0x00 = 0 := by decide
/-- D3: the sprite wraps from column 63 to column 0 -/
theorem test_drw_wrap : runs 0xD011 ((withBytes 0x300 [0xFF]).setReg 0 60)
    (fun t => fbPixel t.fb 60 0 && fbPixel t.fb 63 0 && fbPixel t.fb 0 0 && fbPixel t.fb 3 0 && !fbPixel t.fb 4 0 &&
      !fbPixel t.fb 59 0 && t.reg 0xF == 0 && t.dirty) = true := by decide
/-- D6: one pixel goes off, one on -/
theorem test_drw_collision : runs 0xD011 { withBytes 0x300 [0xC0] with fb := fbFlip fbClear 0 0 }
    (fun t => !fbPixel t.fb 0 0 && fbPixel t.fb 1 0 && t.reg 0xF == 1) = true := by decide
/-- K5, K2 -/
theorem test_skp : (runs 0xE09E { withRegs [(0, 0x15)] with key := State.reset.key.set 5 true } (fun t => t.pc == 0x204) &&
    runs 0xE09E (withRegs [(0, 5)]) (fun t => t.pc == 0x202)) = true := by decide
/-- K3, K4 -/
theorem test_sknp : (runs 0xE0A1 (withRegs [(0, 5)]) (fun t => t.pc == 0x204) &&
    runs 0xE0A1 { withRegs [(0, 5)] with key := State.reset.key.set 5 true } (fun t => t.pc == 0x202)) = true := by decide
/-- K7 -/
theorem test_ldVxDt : runs 0xF207 { State.reset with dt := 0x3C } (fun t => t.reg 2 == 0x3C && t.dt == 0x3C) = true := by
  decide
/-- K8 -/
theorem test_ldDtVx : runs 0xF115 (withRegs [(1, 5)]) (fun t => t.dt == 5 && t.st == 0) = true := by decide
/-- K10 -/
theorem test_ldStVx : runs 0xF118 { State.reset with st := 5 } (fun t => t.st == 0 && t.audioCues == 0) = true := by
  decide
/-- K15 -/
theorem test_ldVxK : runs 0xF30A { State.reset with pc := 0x204, kedge := State.reset.kedge.set 9 true }
    (fun t => t.mode == .awaitingKey 3 && t.pc == 0x204 && t.kedge == noEdges) = true := by decide

/-! ### The other operations -/

/-- The machine's step in a given state, and a property of the state after it. -/
def steps (s : State) (p : State → Bool) : Bool :=
  match step s with
  | .next t => p t
  | .fault _ => false
  | .refused _ => false

/-- E1: nothing loaded -/
theorem test_step_reset : steps State.reset
    (fun t => t.fault == ⟨.invalidOpcode, 0x0000, 0x200⟩ && t.mode == .halted && t.pc == 0x200) = true := by decide
/-- E13: the word's low byte is read at 0x000 -/
theorem test_fetch_wraps : steps { State.reset with pc := 0xFFF, mem := storeBytes [] 0xFFF 0 [0x12] }
    (fun t => t.pc == 0x2F0) = true := by decide
/-- K17: the lowest latched key -/
theorem test_keyWaitPoll : steps { State.reset with
      pc := 0x204, mode := .awaitingKey 3, kedge := (State.reset.kedge.set 9 true).set 2 true }
    (fun t => t.reg 3 == 2 && t.kedge == noEdges && t.mode == .running && t.pc == 0x206) = true := by decide
/-- K24 and K18's press -/
theorem test_setKey : (steps { State.reset with key := State.reset.key.set 7 true, requests := [.key 7 true] }
      (fun t => t.key[7] && !t.kedge[7]) &&
    steps { State.reset with requests := [.key 4 true] } (fun t => t.key[4] && t.kedge[4])) = true := by decide
/-- K11, K13 -/
theorem test_tick : (steps { State.reset with requests := [.tick] } (fun t => t.dt == 0 && t.st == 0 && t.audioCues == 0) &&
    steps { State.reset with dt := 1, st := 1, requests := [.tick] }
      (fun t => t.dt == 0 && t.st == 0 && t.audioCues == 1)) = true := by decide
/-- D12 -/
theorem test_ack : steps { State.reset with requests := [.ack] } (fun t => !t.dirty) = true := by decide
/-- L2, L3 -/
theorem test_load : steps { withBytes 0x300 [0x55] with requests := [.load [0x12, 0x00]] }
    (fun t => Memory.read t.mem 0x200 == 0x12 && Memory.read t.mem 0x300 == 0x55 && !t.loadErr && t.pc == 0x200) = true := by
  decide
/-- K21, E12 -/
theorem test_reset : steps { withRegs [(3, 0x77)] with pc := 0x204, mode := .awaitingKey 3, requests := [.reset] }
    (fun t => t == State.reset) = true := by decide +kernel

/-- R45, R290: RESET writes the parameter `FONT`, here one that is not the default -/
theorem test_reset_font : steps { State.reset with font := Vector.replicate 80 0xA5, requests := [.reset] }
    (fun t => Memory.read t.mem 0 == 0xA5 && Memory.read t.mem 0x4F == 0xA5 && Memory.read t.mem 0x50 == 0 &&
      t.font == Vector.replicate 80 0xA5) = true := by decide +kernel
/-- The core created with that `FONT` -/
theorem test_created_font : (Memory.read (State.created (Vector.replicate 80 0xA5)).mem 0x4F == 0xA5 &&
    (State.created (Vector.replicate 80 0xA5)).pc == 0x200) = true := by decide +kernel

/-! ### Witnesses: states and operands that meet every hypothesis of a statement -/

/-- The halted state of vector E1. -/
def halted : State := { State.reset with fault := ⟨.invalidOpcode, 0, 0x200⟩, mode := .halted }
/-- A key wait with no press latched. -/
def waiting : State := { State.reset with mode := .awaitingKey 3 }
/-- A key wait with keys 2 and 15 latched. -/
def latched : State := { waiting with kedge := (State.reset.kedge.set 2 true).set 15 true }
/-- The state whose next word is a given one. -/
def at200 (w : Nat) : State := State.reset.withFetchWord 16 w

theorem witness_EncodeOfADecodedInstructionIsItsWord : decode 0x6A42#16 = .ok (.ldImm 0xA 0x42) := by decide
theorem witness_StepRunsTheDecodedInstruction_valid :
    Fetching (at200 0x6A42) ∧ decode (wordAtPc (at200 0x6A42)) = .ok (.ldImm 0xA 0x42) := ⟨⟨rfl, rfl⟩, by decide⟩
theorem witness_StepRunsTheDecodedInstruction_invalid :
    Fetching State.reset ∧ decode (wordAtPc State.reset) = .error .family0 := ⟨⟨rfl, rfl⟩, by decide⟩
theorem witness_UnmatchedWordRaisesInvalidOpcode :
    Fetching State.reset ∧ ∀ row ∈ opcodeTable, row.covers (wordAtPc State.reset) = false := ⟨⟨rfl, rfl⟩, by decide⟩
theorem witness_HaltedCoreStaysAsItIs : halted.requests = [] ∧ halted.mode = .halted := ⟨rfl, rfl⟩
theorem witness_WaitingRequestsDoNotInfluenceAStep : step { at200 0x00E0 with requests := [] } =
    .next { at200 0x00E0 with fb := fbClear, dirty := true, pc := 0x202 } := rfl
theorem witness_RunModeTransitions_fetch : step (at200 0xF30A) = .next { at200 0xF30A with mode := .awaitingKey 3 } := rfl
theorem witness_RunModeTransitions_step : step { at200 0x1ABC with requests := [.step] } = .next { at200 0x1ABC with pc := 0xABC } :=
  rfl
theorem witness_RunModeTransitions_request :
    step { halted with requests := [.ack] } = .next { halted with dirty := false } := rfl
theorem witness_ProgramCounterAfterEachInstruction_invalid : Fetching State.reset ∧
    (∀ i, decode (wordAtPc State.reset) ≠ .ok i) ∧ step State.reset = .next halted := by
  have h : decode (wordAtPc State.reset) = .error .family0 := by decide
  exact ⟨⟨rfl, rfl⟩, by simp [h], rfl⟩
theorem witness_ProgramCounterAfterEachInstruction_wait : latched.requests = [] ∧ latched.mode = .awaitingKey 3 ∧
    latched.kedge[2] = true ∧ step latched = .next (keyWaitPoll 3 latched) := ⟨rfl, rfl, by decide, rfl⟩
theorem witness_OnlyTheListedRegistersAreWritten : exec (.ldImm 0xA 0x42) State.reset =
    .next { State.reset with v := State.reset.v.set 10 0x42, pc := 0x202 } ∧ ¬ mayWrite (.ldImm 0xA 0x42) 0xF :=
  ⟨rfl, by simp [mayWrite]⟩
theorem witness_EachPartChangesOnlyUnderItsInstructions :
    exec (.jp 0xABC) State.reset = .next { State.reset with pc := 0xABC } := rfl
theorem witness_UnreadStateDoesNotInfluenceInstructions :
    (∀ x y n, Instr.jp 0xABC ≠ .ldStVx x ∧ Instr.jp 0xABC ≠ .ldVxK x ∧ Instr.jp 0xABC ≠ .cls ∧
      Instr.jp 0xABC ≠ .drw x y n) ∧
    exec (.jp 0xABC) State.reset = .next { State.reset with pc := 0xABC } := ⟨by simp, rfl⟩
theorem witness_StepKeepsMemoryCanonical : Memory.wf (at200 0xF055).mem = true ∧
    step (at200 0x1ABC) = .next { at200 0x1ABC with pc := 0xABC } := ⟨by decide, rfl⟩
theorem witness_StepKeepsFaultRecordInAgreement :
    FaultRecordAgrees halted ∧ step halted = .next halted ∧ FaultRecordAgrees (at200 0x1ABC) := by
  refine ⟨?_, rfl, rfl⟩
  show halted.fault.faultPc = halted.pc ∧ wordWellFormed halted.fault.opcode = false
  decide
theorem witness_JumpsGoToTheirTargets :
    exec (.jpV0 0xFFF) (withRegs [(0, 0xFF)]) = .next { withRegs [(0, 0xFF)] with pc := 0x10FE } := rfl
theorem witness_CallPushesItsAddressAndJumps :
    State.reset.sp.val < 16 ∧ ({ State.reset with sp := 15 } : State).sp.val < 16 := by decide
theorem witness_ReturnResumesPastTheCallSite :
    0 < ({ State.reset with sp := 1 } : State).sp.val ∧ 0 < ({ State.reset with sp := 16 } : State).sp.val := by decide
/-- A stack whose entry 0 holds the call site 0x200. -/
def calledStack : Vector Word 16 := State.reset.stack.set 0 0x200
theorem witness_CallThenReturnResumesTheCaller : State.reset.sp.val < 16 ∧
    exec (.call 0x300) State.reset = .next { State.reset with sp := 1, stack := calledStack, pc := 0x300 } ∧
    exec .ret { State.reset with sp := 1, stack := calledStack, pc := 0x380 } =
      .next { State.reset with sp := 0, stack := calledStack, pc := 0x202 } := ⟨by decide, rfl, rfl⟩
theorem witness_StackFaultsLeaveTheStack :
    ({ State.reset with sp := 16 } : State).sp = 16 ∧ State.reset.sp = 0 := ⟨rfl, rfl⟩
theorem witness_FaultEntryChangesOnlyRecordAndMode :
    ({ State.reset with sp := 16 } : State).sp = 16 ∧ State.reset.sp = 0 := ⟨rfl, rfl⟩
theorem witness_SelfJumpIsAFixedPoint : Fetching (at200 0x1200) ∧
    decode (wordAtPc (at200 0x1200)) = .ok (.jp 0x200) ∧ (at200 0x1200).pc.toNat = (0x200#12).toNat :=
  ⟨⟨rfl, rfl⟩, by decide, by decide⟩
theorem witness_DecimalDigitsAreStored :
    Memory.wf ({ withRegs [(0, 255)] with index := 0xFFF } : State).mem = true := by decide
theorem witness_RegistersAreStored : Memory.wf (withBytes 0xFFE [1, 2, 3]).mem = true := by decide
/-- A state that stores its next instruction: `I = 0x202`, `V[0..1] = 12 0C`, and `F155` at 0x200. -/
def selfModifying : State := { withRegs [(0, 0x12), (1, 0x0C)] with index := 0x202 }
theorem witness_StoreThenLoadGivesTheRegistersBack :
    Memory.wf selfModifying.mem = true ∧ exec (.ldMemVx 1) selfModifying =
      .next { selfModifying with mem := [(0x202, 0x12), (0x203, 0x0C)], pc := 0x202 } ∧
    exec (.ldVxMem 1) { State.reset with mem := [(0x202, 0x12), (0x203, 0x0C)], index := 0x202 } =
      .next { selfModifying with mem := [(0x202, 0x12), (0x203, 0x0C)], pc := 0x202 } := ⟨by decide, rfl, by rfl⟩
theorem witness_StoredInstructionIsFetchedNext : Memory.wf selfModifying.mem = true ∧ 1 ≤ (1 : Reg).val ∧
    selfModifying.index.toNat % 4096 = (selfModifying.pc.toNat + 2) % 4096 ∧ exec (.ldMemVx 1) selfModifying =
      .next { selfModifying with mem := [(0x202, 0x12), (0x203, 0x0C)], pc := 0x202 } := ⟨by decide, by decide, by decide, rfl⟩
/-- Vector S5's start, and after its first draw. -/
def sprite : State := { withBytes 0x300 [0x80] with fb := fbClear }
theorem witness_DrawingTwiceRestoresTheScreen : (0 : Reg) ≠ 15 ∧ (1 : Reg) ≠ 15 ∧
    exec (.drw 0 1 1) sprite = .next { sprite with fb := fbFlip fbClear 0 0, pc := 0x202 } ∧
    exec (.drw 0 1 1) { sprite with fb := fbFlip fbClear 0 0, pc := 0x202 } =
      .next { sprite with v := sprite.v.set 15 1, fb := fbClear, pc := 0x204 } ∧
    (∀ px py, fbPixel sprite.fb px py = false) ∧
    ∃ px py, SpriteBitAt sprite (sprite.reg 0).toNat (sprite.reg 1).toNat 1 px py := by
  refine ⟨by decide, by decide, by rfl, by rfl, fun px py => ?_, 0, 0, 0, by decide, 0, by decide, by decide, by decide, by decide⟩
  simp [sprite, fbClear, fbPixel]
theorem witness_OutputPortsGiveModeFaultAndLoadResult : State.reset.mode = .running ∧ waiting.mode = .awaitingKey 3 ∧
    halted.mode = .halted ∧ State.reset.fault = .clear ∧
    ({ State.reset with requests := [.load [0x12], .step] } : State).requests = .load [0x12] :: [.step] :=
  ⟨rfl, rfl, rfl, rfl, rfl⟩
theorem witness_GlyphIsDrawnFromTheFontset :
    (∀ (k : Nat) (h : k < 80), Memory.read State.reset.mem k = Config.defaultFont[k]) ∧
    (∀ px py, fbPixel State.reset.fb px py = false) ∧
    ∃ t u, exec (.ldFVx 0) State.reset = .next t ∧ exec (.drw 1 2 5) t = .next u := by
  refine ⟨by decide, fun px py => ?_, _, _, rfl, rfl⟩
  simp [State.reset, fbPixel]
theorem witness_AckClearsTheDirtyFlag : ({ State.reset with requests := [.ack, .step] } : State).requests = [.ack, .step] ∧
    exec .cls State.reset = .next { State.reset with fb := fbClear, pc := 0x202 } ∧
    exec (.drw 0 1 1) sprite = .next { sprite with fb := fbFlip fbClear 0 0, pc := 0x202 } := ⟨rfl, rfl, by rfl⟩
theorem witness_KeyTestsReadTheLevel : (15 : Key).val = ((withRegs [(0, 0xFF)]).reg 0).toNat % 16 := by decide
theorem witness_KeyWaitEndsWithTheLeastLatchedKey : latched.requests = [] ∧ latched.mode = .awaitingKey 3 ∧
    latched.kedge[(2 : Key).val] = true ∧ ∀ j : Key, j < 2 → latched.kedge[j.val] = false := by decide
theorem witness_KeyWaitHoldsWhileTimersTick : waiting.mode = .awaitingKey 3 ∧
    (∀ k : Key, waiting.kedge[k.val] = false) ∧
    ∀ r ∈ [Request.tick, .step, .step], r = Request.step ∨ r = .tick := ⟨rfl, by decide, by decide⟩
theorem witness_ShortPressEndsTheKeyWait : waiting.mode = .awaitingKey 3 ∧
    (∀ j : Key, waiting.kedge[j.val] = false) ∧ waiting.key[(15 : Key).val] = false := ⟨rfl, by decide, by decide⟩
theorem witness_KeyOperationLatchesPressEdges :
    ({ State.reset with requests := [.key 15 true, .step] } : State).requests = .key 15 true :: [.step] := rfl
theorem witness_TickCountsTheTimersDown :
    ({ halted with st := 1, dt := 0xFF, requests := [.tick] } : State).requests = .tick :: [] := rfl
theorem witness_ResetZeroesEveryRegister :
    ({ halted with requests := [.reset, .step] } : State).requests = .reset :: [.step] := rfl
/-- A state with a LOAD waiting. -/
def loading (bytes : List Byte) : State := { State.reset with requests := [.load bytes] }
theorem witness_LoadWritesTheProgramOrRejectsIt : Memory.wf State.reset.mem = true ∧
    (loading (List.replicate 3584 1)).requests = .load (List.replicate 3584 1) :: [] ∧
    (List.replicate 3584 (1 : Byte)).length ≤ 3584 ∧ 3584 < (List.replicate 3585 (1 : Byte)).length :=
  ⟨rfl, rfl, by rw [List.length_replicate], by rw [List.length_replicate]; decide⟩
theorem witness_LoadedProgramStartsAtItsFirstWord :
    (List.replicate 3582 (0 : Byte)).length ≤ 3582 ∧ decode (0x12#8 ++ 0x00#8) = .ok (.jp 0x200) :=
  ⟨by rw [List.length_replicate], by decide⟩

end Sys2Proof.Tests
end

section
/-! PROOFS, family 10_state: a step that serves a waiting request, and the registers after RESET (R23). -/

namespace Sys2Proof.Machine

/-! ### Serving a request (R120, R122) -/

/-- With a request waiting, a step takes the oldest one off the queue and performs it. -/
theorem step_of_request {s : State} {r : Request} {rest : List Request} (h : s.requests = r :: rest) :
    step s = perform r { s with requests := rest } := by
  simp only [step, serve, h]

/-- A step that serves RESET leaves the state after RESET under the core's own `FONT`, with the other requests waiting (R290). -/
theorem step_of_reset {s : State} {rest : List Request} (h : s.requests = .reset :: rest) :
    step s = .next (resetWith s.font { s with requests := rest }) :=
  step_of_request h

/-! ### The registers after RESET -/

/-- RESET gives each register the value it has in the state after reset, whatever it held before. -/
@[simp] theorem resetWith_reg (f : Vector Byte 80) (s : State) (r : Reg) : (resetWith f s).reg r = State.reset.reg r := rfl

@[simp] theorem State.reset_reg (r : Reg) : State.reset.reg r = 0 := Vector.getElem_replicate r.isLt

/-- Settles O55: RESET takes every register from the state after reset, where the register file is sixteen zeros. -/
theorem resetZeroesEveryRegister : Obligations.ResetZeroesEveryRegister := by
  refine ⟨State.reset_reg, fun s rest hr => ⟨_, step_of_reset hr, fun r => ?_⟩⟩
  rw [resetWith_reg, State.reset_reg]

end Sys2Proof.Machine
end

section
/-! PROOFS, family 30_encoding: a decoded word is its instruction's encoding, so the instruction's row covers it (R94, R96), and
a word no row covers is not decoded (R100). -/

namespace Sys2Proof

/-! ### A word is put together again from its fields (R91, R92) -/

theorem formatA_of_fields {w : Word} {op : BitVec 4} (hop : (opField w).toNat = op.toNat) : formatA op (nnnField w) = w := by
  rw [opField_toNat] at hop
  apply BitVec.eq_of_toNat_eq
  rw [formatA_toNat, nnnField_toNat]
  omega

theorem formatXI_of_fields {w : Word} {op : BitVec 4} {nn : Byte} (hop : (opField w).toNat = op.toNat)
    (hnn : (nnField w).toNat = nn.toNat) : formatXI op (xField w) nn = w := by
  rw [opField_toNat] at hop
  rw [nnField_toNat] at hnn
  apply BitVec.eq_of_toNat_eq
  rw [formatXI_toNat, xField_val]
  omega

theorem formatXYN_of_fields {w : Word} {op : BitVec 4} {n : Fin 16} (hop : (opField w).toNat = op.toNat)
    (hn : (nField w).val = n.val) : formatXYN op (xField w) (yField w) n = w := by
  rw [opField_toNat] at hop
  rw [nField_val] at hn
  apply BitVec.eq_of_toNat_eq
  rw [formatXYN_toNat, xField_val, yField_val]
  omega

/-! ### A decoded word is the encoding of its instruction (R96) -/

theorem encode_of_decodeAlu {w : Word} {i : Instr} (hop : (opField w).toNat = 0x8) (h : decodeAlu w = .ok i) :
    encode i = w := by
  unfold decodeAlu at h
  split at h <;> cases h <;> exact formatXYN_of_fields hop ‹_›

theorem encode_of_decodeKey {w : Word} {i : Instr} (hop : (opField w).toNat = 0xE) (h : decodeKey w = .ok i) :
    encode i = w := by
  unfold decodeKey at h
  split at h <;> cases h <;> exact formatXI_of_fields hop ‹_›

theorem encode_of_decodeMisc {w : Word} {i : Instr} (hop : (opField w).toNat = 0xF) (h : decodeMisc w = .ok i) :
    encode i = w := by
  unfold decodeMisc at h
  split at h <;> cases h <;> exact formatXI_of_fields hop ‹_›

/-- The instruction decoded from a word has that word as its encoding. -/
theorem encode_of_decode {w : Word} {i : Instr} (h : decode w = .ok i) : encode i = w := by
  unfold decode at h
  split at h
  case h_1 =>
    split at h
    next hw => cases h; exact hw.symm
    next =>
      split at h
      next hw => cases h; exact hw.symm
      next => cases h
  case h_2 hop | h_3 hop | h_11 hop | h_12 hop => cases h; exact formatA_of_fields hop
  case h_4 hop | h_5 hop | h_7 hop | h_8 hop | h_13 hop => cases h; exact formatXI_of_fields hop rfl
  case h_6 hop | h_10 hop =>
    split at h
    next hn => cases h; exact formatXYN_of_fields hop (congrArg Fin.val hn)
    next => cases h
  case h_14 hop => cases h; exact formatXYN_of_fields hop rfl
  case h_9 hop => exact encode_of_decodeAlu hop h
  case h_15 hop => exact encode_of_decodeKey hop h
  case h_16 =>
    have hop : (opField w).toNat = 0xF := by
      have := (opField w).isLt
      simp only [imp_false] at *
      omega
    exact encode_of_decodeMisc hop h

/-! ### The row of a decoded word (R94) -/

theorem rowOf_mem_opcodeTable (i : Instr) : rowOf i ∈ opcodeTable := by
  cases i <;> simp [opcodeTable, rowSamples, rowOf]

open Laws.EncodesToItsRow in
/-- Every instruction's word is covered by the instruction's own row, assembled from the lemmas of the 34 rows. -/
theorem rowOf_covers_encode (i : Instr) : (rowOf i).covers (encode i) = true := by
  cases i
  exacts [cls, ret, jp _, call _, seImm _ _, sneImm _ _, seReg _ _, ldImm _ _, addImm _ _,
    ldReg _ _, orReg _ _, andReg _ _, xorReg _ _, addReg _ _, sub _ _, shr _ _, subn _ _, shl _ _,
    sneReg _ _, ldI _, jpV0 _, rnd _ _, drw _ _ _, skp _, sknp _, ldVxDt _, ldVxK _,
    ldDtVx _, ldStVx _, addIVx _, ldFVx _, ldBVx _, ldMemVx _, ldVxMem _]

/-- The row of a decoded instruction covers the word it was decoded from. -/
theorem rowOf_covers_of_decode {w : Word} {i : Instr} (h : decode w = .ok i) : (rowOf i).covers w = true := by
  have hcov := rowOf_covers_encode i
  rwa [encode_of_decode h] at hcov

/-- The decoder rejects a word that no row of the opcode map covers. -/
theorem decode_error_of_uncovered {w : Word} (h : ∀ row ∈ opcodeTable, row.covers w = false) :
    ∃ e, decode w = .error e := by
  cases hd : decode w with
  | error e => exact ⟨e, rfl⟩
  | ok i =>
    have hcov := rowOf_covers_of_decode hd
    rw [h _ (rowOf_mem_opcodeTable i)] at hcov
    cases hcov

end Sys2Proof

namespace Sys2Proof.Machine

/-- A step that fetches a word the decoder rejects is the entry of `InvalidOpcode` on that word (R124, R260). -/
theorem step_of_decode_error {s : State} {e : InvalidWord} (hs : Fetching s) (he : decode (wordAtPc s) = .error e) :
    step s = .next (raiseFault .invalidOpcode (wordAtPc s) s) := by
  rw [step_fetching hs]
  simp only [runOneInstruction, fetchWord_eq, he]

/-- Settles O7: a decoded word is covered by its instruction's row, so a word no row covers is rejected, and its step enters
`InvalidOpcode`. -/
theorem unmatchedWordRaisesInvalidOpcode : Obligations.UnmatchedWordRaisesInvalidOpcode := by
  intro s hs hrows
  obtain ⟨e, he⟩ := decode_error_of_uncovered hrows
  exact ⟨_, step_of_decode_error hs he, raiseFault_fault _ _ s, raiseFault_mode _ _ s⟩

end Sys2Proof.Machine
end

section
/-! PROOFS, family 40_cycle: what each operation does to the run mode (R127). -/

namespace Sys2Proof.Machine

/-! ### The run mode after an instruction -/

/-- `FX0A` starts the wait for its register (R246). -/
theorem exec_ldVxK_mode {x : Reg} {s t : State} (h : exec (.ldVxK x) s = .next t) : t.mode = .awaitingKey x := by
  cases h
  rfl

/-- A call halts the core exactly when the stack is full (R142). -/
theorem exec_call_mode {n : Addr12} {s t : State} (h : exec (.call n) s = .next t) :
    if s.sp = 16 then t.mode = .halted else t.mode = s.mode := by
  obtain ⟨hroom, hcall⟩ | ⟨hfull, hcall⟩ := execCall_cases n s <;> cases hcall.symm.trans h
  · have hsp : s.sp ≠ 16 := fun hfull => by simp [hfull] at hroom
    rw [if_neg hsp, State.jump_mode]
  · rw [if_pos hfull, raiseFault_mode]

/-- A return halts the core exactly when the stack is empty (R140). -/
theorem exec_ret_mode {s t : State} (h : exec .ret s = .next t) :
    if s.sp = 0 then t.mode = .halted else t.mode = s.mode := by
  obtain ⟨hentry, hret⟩ | ⟨hempty, hret⟩ := execRet_cases s <;> cases hret.symm.trans h
  · have hsp : s.sp ≠ 0 := fun hempty => by simp [hempty] at hentry
    rw [if_neg hsp, State.jump_mode]
  · rw [if_pos hempty, raiseFault_mode]

/-- Every instruction but `FX0A`, `2NNN` and `00EE` keeps the run mode. -/
theorem exec_mode_of_other {i : Instr} {s t : State} (hwait : ∀ x, i ≠ .ldVxK x) (hcall : ∀ n, i ≠ .call n)
    (hret : i ≠ .ret) (h : exec i s = .next t) : t.mode = s.mode := by
  obtain ⟨hmode, -⟩ | ⟨x, hi, -⟩ | ⟨n, hi, -⟩ | ⟨hi, -⟩ := exec_mode_cases h
  · exact hmode
  · exact absurd hi (hwait x)
  · exact absurd hi (hcall n)
  · exact absurd hi hret

/-! ### The run mode after a poll of the wait (R247) -/

theorem keyWaitPoll_mode_of_latched {x : Reg} {s : State} (h : ∃ k : Key, s.kedge[k.val] = true) :
    (keyWaitPoll x s).mode = .running := by
  obtain ⟨k, hk⟩ := h
  obtain ⟨j, -, hpoll⟩ | ⟨hnone, -⟩ := keyWaitPoll_cases x s
  · rw [hpoll, State.advance_mode, State.setReg_mode]
  · cases hk.symm.trans (leastEdge_none.mp hnone k)

theorem keyWaitPoll_of_not_latched {x : Reg} {s : State} (h : ¬ ∃ k : Key, s.kedge[k.val] = true) : keyWaitPoll x s = s := by
  obtain ⟨k, hk, -⟩ | ⟨-, hpoll⟩ := keyWaitPoll_cases x s
  · obtain ⟨hlatched, -⟩ := leastEdge_some.mp hk
    exact absurd ⟨k, hlatched⟩ h
  · exact hpoll

/-! ### The STEP operation by run mode (R123, R124, R126) -/

/-- A step that performs a STEP, the driving loop's or a request's, is the STEP operation on a state that agrees with the given
one in all that a transition reads: only the queue can differ. -/
theorem step_eq_stepOperation {s : State} (h : s.requests = [] ∨ ∃ rest, s.requests = .step :: rest) :
    ∃ u, step s = stepOperation u ∧ u.mode = s.mode ∧ wordAtPc u = wordAtPc s ∧ u.sp = s.sp ∧ u.kedge = s.kedge := by
  obtain hnone | ⟨rest, hr⟩ := h
  · exact ⟨s, by simp only [step, serve, hnone], rfl, rfl, rfl, rfl⟩
  · exact ⟨{ s with requests := rest }, step_of_request hr, rfl, rfl, rfl, rfl⟩

theorem stepOperation_of_halted {s : State} (hm : s.mode = .halted) : stepOperation s = .next s := by
  simp only [stepOperation, hm]

theorem stepOperation_of_awaitingKey {s : State} {x : Reg} (hm : s.mode = .awaitingKey x) :
    stepOperation s = .next (keyWaitPoll x s) := by
  simp only [stepOperation, hm]

theorem stepOperation_of_decode_ok {s : State} {i : Instr} (hm : s.mode = .running) (hd : decode (wordAtPc s) = .ok i) :
    stepOperation s = exec i s := by
  simp only [stepOperation, hm, runOneInstruction, fetchWord_eq, hd]

theorem stepOperation_of_decode_error {s : State} {e : InvalidWord} (hm : s.mode = .running)
    (hd : decode (wordAtPc s) = .error e) : stepOperation s = .next (raiseFault .invalidOpcode (wordAtPc s) s) := by
  simp only [stepOperation, hm, runOneInstruction, fetchWord_eq, hd]

/-! ### The run mode after a request other than RESET and STEP -/

@[simp] theorem loadProgram_mode (bytes : List Byte) (s : State) : (loadProgram bytes s).mode = s.mode := by
  unfold loadProgram
  split <;> rfl

/-- LOAD, TICK, KEY and ACK keep the run mode. -/
theorem perform_mode_of_other {r : Request} {s t : State} (hreset : r ≠ .reset) (hstep : r ≠ .step)
    (h : perform r s = .next t) : t.mode = s.mode := by
  cases r with
  | reset => exact absurd rfl hreset
  | step => exact absurd rfl hstep
  | load bytes => cases h; exact loadProgram_mode bytes s
  | tick | key | ack => cases h; rfl

/-! ### The table of transitions -/

/-- Settles O11: the STEP operation by run mode and decoded instruction, then the other five operations by request. -/
theorem runModeTransitions : Obligations.RunModeTransitions := by
  intro s t h
  refine ⟨fun hs => ?_, fun r rest hr => ⟨fun hreset => ?_, fun hreset hstep => ?_⟩⟩
  · obtain ⟨u, hstep, hmode, hword, hsp, hkedge⟩ := step_eq_stepOperation hs
    rw [hstep] at h
    rw [← hmode, ← hword, ← hsp, ← hkedge]
    split
    next hm =>
      have running {i : Instr} (hd : decode (wordAtPc u) = .ok i) : exec i u = .next t :=
        (stepOperation_of_decode_ok hm hd).symm.trans h
      split
      next x hd => exact exec_ldVxK_mode (running hd)
      next n hd => simpa only [hm] using exec_call_mode (running hd)
      next hd => simpa only [hm] using exec_ret_mode (running hd)
      next i hwait hcall hret hd => exact (exec_mode_of_other hwait hcall hret (running hd)).trans hm
      next e hd =>
        cases (stepOperation_of_decode_error hm hd).symm.trans h
        exact raiseFault_mode _ _ u
    next x hm =>
      cases (stepOperation_of_awaitingKey hm).symm.trans h
      split
      next hlatched => exact keyWaitPoll_mode_of_latched hlatched
      next hlatched => rw [keyWaitPoll_of_not_latched hlatched, hm]
    next hm =>
      cases (stepOperation_of_halted hm).symm.trans h
      exact hm
  · subst hreset
    cases (step_of_reset hr).symm.trans h
    rfl
  · exact perform_mode_of_other (s := { s with requests := rest }) hreset hstep ((step_of_request hr).symm.trans h)

end Sys2Proof.Machine
end

section
/-! PROOFS, family 41_control_flow: the program counter after each instruction (R25), and the jumps and register skips in
full (R141, R143 to R147). -/

namespace Sys2Proof.Machine

/-! ### Targets and advances as numbers (R24, R124) -/

/-- The target of `BNNN` never wraps: a 12-bit address plus a byte stays below 2^16 (R147). -/
theorem indexedTarget_toNat (nnn : Addr12) (x : Byte) : (indexedTarget nnn x).toNat = nnn.toNat + x.toNat := by
  simp only [indexedTarget, BitVec.toNat_add, BitVec.toNat_setWidth, address_toNat]
  omega

theorem advanced_of_pc_eq {s t : State} (h : t.pc = s.pc + 2) : Advanced s t := by
  rw [Advanced, h]
  exact BitVec.toNat_add s.pc 2

theorem State.skipIf_pc_toNat (s : State) (c : Bool) :
    (s.skipIf c).pc.toNat = if c then (s.pc.toNat + 4) % 65536 else (s.pc.toNat + 2) % 65536 := by
  cases c <;> simp

/-- The same with the condition written another way, as `nextPc` writes it. -/
theorem State.skipIf_pc_toNat_of_eq (s : State) {b c : Bool} (h : b = c) :
    (s.skipIf b).pc.toNat = if c then (s.pc.toNat + 4) % 65536 else (s.pc.toNat + 2) % 65536 :=
  h ▸ s.skipIf_pc_toNat b

/-! ### The shapes of a jump and of a skip -/

theorem jumpsTo_of_exec {i : Instr} {s : State} {p : Word} {target : Nat} (h : exec i s = .next (s.jump p))
    (hp : p.toNat = target) : JumpsTo i target s :=
  ⟨s.jump p, h, rfl, hp, fun _ => rfl⟩

theorem skipsWhen_of_exec {i : Instr} {s : State} {b : Bool} {c : Prop} (h : exec i s = .next (s.skipIf b))
    (hb : b = true ↔ c) : SkipsWhen i c s := by
  refine ⟨s.skipIf b, h, rfl, fun hc => ?_, fun hc => ?_, fun _ => rfl⟩
  · rw [State.skipIf_pc_toNat, if_pos (hb.mpr hc)]
  · rw [Advanced, State.skipIf_pc_toNat, if_neg (mt hb.mp hc)]

/-- An instruction's word lies in the instruction's own row of the opcode map (R94). -/
theorem encodedIn_row (i : Instr) : EncodedIn i (rowOf i).pattern (rowOf i).mask := eq_of_beq (rowOf_covers_encode i)

/-- Settles O19: both jumps set the program counter and nothing else, so the next fetch reads the same memory at the target. -/
theorem jumpsGoToTheirTargets : Obligations.JumpsGoToTheirTargets := by
  intro s nnn
  refine ⟨encodedIn_row (.jp nnn), jumpsTo_of_exec rfl (address_toNat nnn), encodedIn_row (.jpV0 nnn),
    jumpsTo_of_exec rfl (indexedTarget_toNat nnn _), fun t ht => ?_⟩
  cases ht
  simp only [fetchWord_eq, wordAtPc, State.jump_pc, State.jump_mem, indexedTarget_toNat, Memory.read_mod]

/-- Settles O20: each register skip is `skipIf` on its comparison. -/
theorem registerSkipsTestTheirCondition : Obligations.RegisterSkipsTestTheirCondition := by
  intro s x y nn
  exact ⟨encodedIn_row (.seImm x nn), skipsWhen_of_exec rfl beq_iff_eq,
    encodedIn_row (.sneImm x nn), skipsWhen_of_exec rfl bne_iff_ne,
    encodedIn_row (.seReg x y), skipsWhen_of_exec rfl beq_iff_eq,
    encodedIn_row (.sneReg x y), skipsWhen_of_exec rfl bne_iff_ne⟩

/-! ### The program counter after an instruction (R25) -/

/-- A call goes to its target, or stays on a full stack (R142). -/
theorem exec_call_pc {nnn : Addr12} {s t : State} (h : exec (.call nnn) s = .next t) :
    t.pc.toNat = nextPc (.call nnn) s := by
  simp only [nextPc]
  obtain ⟨hroom, hcall⟩ | ⟨hfull, hcall⟩ := execCall_cases nnn s <;> cases hcall.symm.trans h
  · have hsp : s.sp ≠ 16 := fun hfull => by simp [hfull] at hroom
    rw [if_neg hsp, State.jump_pc, address_toNat]
  · rw [if_pos hfull, raiseFault_pc]

/-- A return goes two past the popped call site, or stays on an empty stack (R140). -/
theorem exec_ret_pc {s t : State} (h : exec .ret s = .next t) : t.pc.toNat = nextPc .ret s := by
  simp only [nextPc]
  obtain ⟨hentry, hret⟩ | ⟨hempty, hret⟩ := execRet_cases s <;> cases hret.symm.trans h
  · have hsp : s.sp ≠ 0 := fun hempty => by simp [hempty] at hentry
    rw [dif_neg hsp, State.jump_pc, BitVec.toNat_add]
    rfl
  · rw [dif_pos hempty, raiseFault_pc]

/-- The program counter after any instruction is the one its rule gives. -/
theorem exec_pc {i : Instr} {s t : State} (h : exec i s = .next t) : t.pc.toNat = nextPc i s := by
  cases i
  case call nnn => exact exec_call_pc h
  case ret => exact exec_ret_pc h
  case jp nnn => cases h; exact address_toNat nnn
  case jpV0 nnn => cases h; exact indexedTarget_toNat nnn _
  case seImm | seReg => cases h; exact s.skipIf_pc_toNat _
  case sneImm | sneReg => cases h; exact s.skipIf_pc_toNat_of_eq decide_not.symm
  case skp => cases h; exact s.skipIf_pc_toNat_of_eq Bool.decide_eq_true.symm
  case sknp => cases h; exact s.skipIf_pc_toNat_of_eq Bool.decide_eq_false.symm
  case ldVxK => cases h; rfl
  all_goals cases h; exact advanced_of_pc_eq rfl

/-! ### The program counter after the STEPs that execute no instruction -/

/-- A word the decoder rejects leaves the program counter at it (R262). -/
theorem step_pc_of_not_decoded {s t : State} (hs : Fetching s) (hd : ∀ i, decode (wordAtPc s) ≠ .ok i)
    (h : step s = .next t) : t.pc = s.pc := by
  cases he : decode (wordAtPc s) with
  | ok i => exact absurd he (hd i)
  | error e =>
    cases (step_of_decode_error hs he).symm.trans h
    exact raiseFault_pc _ _ s

/-- The poll that ends a key wait goes on past the `FX0A` (R247). -/
theorem keyWaitPoll_advanced_of_latched {x : Reg} {s : State} {k : Key} (hk : s.kedge[k.val] = true) :
    Advanced s (keyWaitPoll x s) := by
  obtain ⟨j, -, hpoll⟩ | ⟨hnone, -⟩ := keyWaitPoll_cases x s
  · rw [hpoll]
    exact advanced_of_pc_eq rfl
  · cases hk.symm.trans (leastEdge_none.mp hnone k)

theorem step_of_no_request {s : State} (h : s.requests = []) : step s = stepOperation s := by
  simp only [step, serve, h]

/-- Settles O12: an executed instruction, an invalid word, and the poll that ends a key wait, each by its own lemma. -/
theorem programCounterAfterEachInstruction : Obligations.ProgramCounterAfterEachInstruction := by
  refine ⟨fun _ _ _ => exec_pc, fun _ _ => step_pc_of_not_decoded, fun s t x k hr hm hk h => ?_⟩
  rw [step_of_no_request hr, stepOperation_of_awaitingKey hm] at h
  cases h
  exact keyWaitPoll_advanced_of_latched hk

end Sys2Proof.Machine
end

section
/-! PROOFS, family 42_alu: the instructions that write one register and no flag (R170 to R172). -/

namespace Sys2Proof.Machine

/-! ### The shape of a write to one register -/

/-- An instruction that sets `V[x]` and advances writes that register and leaves everything else. -/
theorem writesOneReg_of_exec {i : Instr} {s : State} {x : Reg} {r : Byte} {value : Nat}
    (h : exec i s = .next (s.setReg x r).advance) (hr : r.toNat = value) : WritesOneReg i x value s := by
  refine ⟨(s.setReg x r).advance, h, rfl, advanced_of_pc_eq rfl, ?_, fun q hq => ?_, fun _ => rfl⟩
  · rw [State.reg_advance, State.reg_setReg, if_pos rfl, hr]
  · rw [State.reg_advance, State.reg_setReg, if_neg hq]

/-- Settles O27: each of the three sets `V[x]` and advances; the byte written is the operand, the wrapped sum or `V[y]`. -/
theorem registerLoadsAndImmediateAdd : Obligations.RegisterLoadsAndImmediateAdd := by
  intro s x y nn
  exact ⟨encodedIn_row (.ldImm x nn), writesOneReg_of_exec rfl rfl,
    encodedIn_row (.addImm x nn), writesOneReg_of_exec rfl (BitVec.toNat_add (s.reg x) nn),
    encodedIn_row (.ldReg x y), writesOneReg_of_exec rfl rfl⟩

end Sys2Proof.Machine
end

section
/-! PROOFS, family 43_index_memory: a transfer to memory from byte 0 on (R66), the decimal digits that `FX33` stores (R203) and
the glyph address that `FX29` gives (R202). -/

namespace Sys2Proof.Machine

/-! ### A transfer from its first byte on (R66) -/

/-- Byte `k` of a transfer of at most 4096 bytes reads, at its own address, as the byte stored there. -/
theorem read_stored {m : Memory} (hm : Memory.wf m = true) (base : Word) {xs : List Byte} (hlen : xs.length ≤ 4096) {k : Nat}
    (hk : k < xs.length) : Memory.read (storeBytes m base 0 xs) (dataAddr base k) = xs[k] := by
  have hread := read_storeBytes_inside hm base 0 xs hlen k hk
  rwa [Nat.zero_add] at hread

/-- A state whose memory is another's after a transfer differs from it in no byte outside the transfer. -/
theorem memorySameOutside_of_stored {s t : State} {base : Word} {xs : List Byte} {n : Nat} (hm : Memory.wf s.mem = true)
    (ht : t.mem = storeBytes s.mem base 0 xs) (hn : xs.length = n) : MemorySameOutside base n s t := by
  intro a ha
  subst hn
  rw [ht]
  refine read_storeBytes_outside hm base 0 xs a fun k hk => ?_
  rw [Nat.zero_add]
  exact ha k hk

/-! ### Decimal digits (R203) -/

@[simp] theorem decimalDigits_length (b : Byte) : (decimalDigits b).length = 3 := rfl

/-- No digit of a byte is too large for a byte, so each is stored unreduced. -/
theorem digit_toNat {d : Nat} (hd : d < 10) : (BitVec.ofNat 8 d).toNat = d :=
  (BitVec.toNat_ofNat d 8).trans (Nat.mod_eq_of_lt (by omega))

theorem decimalDigits_hundreds_toNat (b : Byte) : (decimalDigits b)[0].toNat = b.toNat / 100 := digit_toNat (by omega)

theorem decimalDigits_tens_toNat (b : Byte) : (decimalDigits b)[1].toNat = b.toNat / 10 % 10 := digit_toNat (by omega)

theorem decimalDigits_units_toNat (b : Byte) : (decimalDigits b)[2].toNat = b.toNat % 10 := digit_toNat (by omega)

/-- Settles O35: the three bytes stored from `I` are the decimal digits, and a transfer changes no byte outside it. -/
theorem decimalDigitsAreStored : Obligations.DecimalDigitsAreStored := by
  intro s x hm
  have hread (k : Nat) (hk : k < (decimalDigits (s.reg x)).length) :
      (Memory.read (storeBytes s.mem s.index 0 (decimalDigits (s.reg x))) (dataAddr s.index k)).toNat =
        (decimalDigits (s.reg x))[k].toNat :=
    congrArg BitVec.toNat (read_stored hm s.index (by simp) hk)
  exact ⟨encodedIn_row (.ldBVx x), _, rfl, rfl, advanced_of_pc_eq rfl,
    (hread 0 (by simp)).trans (decimalDigits_hundreds_toNat _), (hread 1 (by simp)).trans (decimalDigits_tens_toNat _),
    (hread 2 (by simp)).trans (decimalDigits_units_toNat _), memorySameOutside_of_stored hm rfl rfl⟩

/-! ### Glyph addresses (R202) -/

/-- The last glyph starts at 75, so a glyph's address is never reduced. -/
theorem glyphAddr_toNat (b : Byte) : (glyphAddr b).toNat = 5 * (b.toNat % 16) :=
  (BitVec.toNat_ofNat _ 16).trans (Nat.mod_eq_of_lt (by omega))

/-- Settles O34: `FX29` sets `I` to the glyph's address and advances. -/
theorem glyphAddressIsFiveTimesTheDigit : Obligations.GlyphAddressIsFiveTimesTheDigit := by
  intro s x
  refine ⟨encodedIn_row (.ldFVx x), _, rfl, rfl, advanced_of_pc_eq rfl, ?_, fun _ => rfl⟩
  rw [Nat.zero_add]
  exact glyphAddr_toNat (s.reg x)

end Sys2Proof.Machine
end

section
/-! PROOFS, family 44_display: the framebuffer read port (R224), and the flag that a draw sets and ACK clears (R225). -/

namespace Sys2Proof.Machine

/-! ### The framebuffer read port (R33, R224) -/

/-- The 2048 pixels have addresses below 2^11, so a pixel's address is never reduced. -/
theorem pixelAddr_toNat {px py : Nat} (hx : px < 64) (hy : py < 32) :
    (BitVec.ofNat 11 (py * 64 + px)).toNat = py * 64 + px :=
  (BitVec.toNat_ofNat _ 11).trans (Nat.mod_eq_of_lt (by omega))

theorem fbReadPort_pixelAddr (s : State) {px py : Nat} (hx : px < 64) (hy : py < 32) :
    fbReadPort s (BitVec.ofNat 11 (py * 64 + px)) = fbPixel s.fb px py := by
  have hcol : (py * 64 + px) % 64 = px := by omega
  have hrow : (py * 64 + px) / 64 = py := by omega
  rw [fbReadPort, pixelAddr_toNat hx hy, hcol, hrow]

/-- Settles O43: the port splits an address into column and row, and a pixel's address splits into that pixel's own. -/
theorem readPortIsRowMajor : Obligations.ReadPortIsRowMajor :=
  fun s => ⟨fun _ => rfl, fun _ _ => fbReadPort_pixelAddr s, rfl⟩

/-! ### The dirty flag (R220, R221, R225) -/

/-- A step that serves ACK clears `DIRTY` and takes the request off the queue; the run mode is not read. -/
theorem step_of_ack {s : State} {rest : List Request} (h : s.requests = .ack :: rest) :
    step s = .next { s with dirty := false, requests := rest } :=
  step_of_request h

theorem exec_cls_dirty {s t : State} (h : exec .cls s = .next t) : t.dirty = true := by
  cases h
  rfl

/-- A draw sets `DIRTY` before its collision flag, and writing VF and advancing leave `DIRTY`. -/
theorem exec_drw_dirty {x y : Reg} {n : Fin 16} {s t : State} (h : exec (.drw x y n) s = .next t) : t.dirty = true := by
  cases h
  rw [State.advance_dirty, State.setFlag_dirty]

/-- Settles O44: a step that serves ACK is one update of the state, and a clear and a draw each set `DIRTY`. -/
theorem ackClearsTheDirtyFlag : Obligations.AckClearsTheDirtyFlag :=
  ⟨fun _ _ => step_of_ack, fun _ _ => exec_cls_dirty, fun _ _ _ _ _ => exec_drw_dirty⟩

end Sys2Proof.Machine
end

section
/-! PROOFS, family 45_keys_timers: the delay timer's instructions (R243, R244) and the key port (R250). -/

namespace Sys2Proof.Machine

/-! ### The delay timer (R243, R244, R270) -/

@[simp] theorem tick_dt (s : State) : (tick s).dt = countDown s.dt := rfl

/-- `FX15` loads the delay timer from `V[x]` and advances. -/
theorem exec_ldDtVx (x : Reg) (s : State) : exec (.ldDtVx x) s = .next { s with dt := s.reg x }.advance := rfl

/-- Settles O46: `FX07` is a register write of the timer's value; after `FX15` the timer holds `V[x]`, and TICK counts down from
there, 0 staying 0. -/
theorem delayTimerIsReadAndWritten : Obligations.DelayTimerIsReadAndWritten := by
  intro s x
  refine ⟨encodedIn_row (.ldVxDt x), writesOneReg_of_exec rfl rfl, encodedIn_row (.ldDtVx x),
    _, exec_ldDtVx x s, rfl, advanced_of_pc_eq rfl, fun _ => rfl, ?_⟩
  rw [tick_dt, countDown_toNat, State.advance_dt]

/-! ### The key port (R250) -/

/-- A step that serves KEY performs it and takes the request off the queue; the run mode is not read. -/
theorem step_of_key {s : State} {rest : List Request} {k : Key} {pressed : Bool}
    (h : s.requests = .key k pressed :: rest) : step s = .next (setKey k pressed { s with requests := rest }) :=
  step_of_request h

/-- Setting one key's entry of a vector changes that key's entry alone. -/
theorem getElem_set_key (e : Vector Bool 16) (k j : Key) (b : Bool) :
    (e.set k.val b)[j.val] = if j = k then b else e[j.val] := by
  simp only [Vector.getElem_set, Fin.ext_iff, eq_comm]

theorem setKey_key (k j : Key) (pressed : Bool) (s : State) :
    (setKey k pressed s).key[j.val] = if j = k then pressed else s.key[j.val] :=
  getElem_set_key s.key k j pressed

/-- A released-to-pressed transition sets the latch bit of its key. -/
theorem setKey_kedge_of_edge {k : Key} {pressed : Bool} {s : State} (h : pressed = true ∧ s.key[k.val] = false) :
    (setKey k pressed s).kedge = s.kedge.set k.val true :=
  if_pos (by simpa using h)

/-- A press of a key already pressed, or a release, sets no latch bit. -/
theorem setKey_kedge_of_no_edge {k : Key} {pressed : Bool} {s : State} (h : ¬ (pressed = true ∧ s.key[k.val] = false)) :
    (setKey k pressed s).kedge = s.kedge :=
  if_neg (by simpa using h)

theorem setKey_kedge (k j : Key) (pressed : Bool) (s : State) :
    (setKey k pressed s).kedge[j.val] =
      if j = k ∧ pressed = true ∧ s.key[j.val] = false then true else s.kedge[j.val] := by
  by_cases hedge : pressed = true ∧ s.key[k.val] = false
  · rw [setKey_kedge_of_edge hedge, getElem_set_key]
    by_cases hj : j = k
    · subst hj
      rw [if_pos rfl, if_pos ⟨rfl, hedge⟩]
    · rw [if_neg hj, if_neg fun h => hj h.1]
  · rw [setKey_kedge_of_no_edge hedge, if_neg]
    rintro ⟨rfl, h⟩
    exact hedge h

/-- Settles O52: KEY changes the levels and the latch alone, each entry as its lemma says. -/
theorem keyOperationLatchesPressEdges : Obligations.KeyOperationLatchesPressEdges :=
  fun s rest k pressed h =>
    ⟨_, step_of_key h, rfl, fun j =>
      ⟨setKey_key k j pressed { s with requests := rest }, setKey_kedge k j pressed { s with requests := rest }⟩⟩

end Sys2Proof.Machine
end

section
/-! PROOFS, family 60_exceptions: the two stack faults (R261), and the parts of the state that each instruction changes. -/

namespace Sys2Proof.Machine

/-! ### Stack faults (R261) -/

/-- A call on a full stack is the entry of `StackOverflow` (R142). -/
theorem exec_call_of_full {s : State} (nnn : Addr12) (h : s.sp = 16) :
    exec (.call nnn) s = .next (raiseFault .stackOverflow (encode (.call nnn)) s) := by
  obtain ⟨hroom, -⟩ | ⟨-, hcall⟩ := execCall_cases nnn s
  · simp [h] at hroom
  · exact hcall

/-- A return on an empty stack is the entry of `StackUnderflow` (R140). -/
theorem exec_ret_of_empty {s : State} (h : s.sp = 0) :
    exec .ret s = .next (raiseFault .stackUnderflow (encode .ret) s) := by
  obtain ⟨hentry, -⟩ | ⟨-, hret⟩ := execRet_cases s
  · simp [h] at hentry
  · exact hret

/-- Settles O24: each is a fault entry, which records its code and leaves the stack, `SP` and the program counter. -/
theorem stackFaultsLeaveTheStack : Obligations.StackFaultsLeaveTheStack :=
  ⟨fun s nnn h => ⟨_, exec_call_of_full nnn h, rfl, raiseFault_stack _ _ s, raiseFault_sp _ _ s, raiseFault_pc _ _ s⟩,
    fun s h => ⟨_, exec_ret_of_empty h, rfl, raiseFault_stack _ _ s, raiseFault_sp _ _ s, raiseFault_pc _ _ s⟩⟩

/-! ### The one part of the state that an instruction changes -/

/-- A call changes the stack, or on a full one the fault record, and the program counter and run mode with them (R142). -/
theorem exec_call_frame {nnn : Addr12} {s t : State} (h : exec (.call nnn) s = .next t) :
    ∃ pc stack sp mode fault, t = { s with pc := pc, stack := stack, sp := sp, mode := mode, fault := fault } := by
  obtain ⟨_, hcall⟩ | ⟨_, hcall⟩ := execCall_cases nnn s <;> cases hcall.symm.trans h
  all_goals exact ⟨_, _, _, _, _, rfl⟩

/-- A return changes `SP`, or on an empty stack the fault record, and the program counter and run mode with them (R140). -/
theorem exec_ret_frame {s t : State} (h : exec .ret s = .next t) :
    ∃ pc stack sp mode fault, t = { s with pc := pc, stack := stack, sp := sp, mode := mode, fault := fault } := by
  obtain ⟨_, hret⟩ | ⟨_, hret⟩ := execRet_cases s <;> cases hret.symm.trans h
  all_goals exact ⟨_, _, _, _, _, rfl⟩

/-- What an instruction can change: the registers and the program counter, and beside them at most one part of the state, under
the instructions of that part alone. Each group of instructions is the negation of its premise in O14, with the same operands. -/
theorem exec_frame_cases {i : Instr} {s t : State} (h : exec i s = .next t) :
    (∃ v pc, t = { s with v := v, pc := pc }) ∨
    ((∃ x, i = .ldBVx x ∨ i = .ldMemVx x) ∧ ∃ pc mem, t = { s with pc := pc, mem := mem }) ∨
    ((∃ n x, i = .ldI n ∨ i = .addIVx x ∨ i = .ldFVx x) ∧ ∃ v pc index, t = { s with v := v, pc := pc, index := index }) ∨
    ((∃ n, i = .call n ∨ i = .ret) ∧ ∃ pc stack sp mode fault,
      t = { s with pc := pc, stack := stack, sp := sp, mode := mode, fault := fault }) ∨
    ((∃ x y n, i = .cls ∨ i = .drw x y n) ∧ ∃ v pc fb dirty, t = { s with v := v, pc := pc, fb := fb, dirty := dirty }) ∨
    ((∃ x, i = .ldDtVx x) ∧ ∃ pc dt, t = { s with pc := pc, dt := dt }) ∨
    ((∃ x, i = .ldStVx x) ∧ ∃ pc st, t = { s with pc := pc, st := st }) ∨
    ((∃ x, i = .ldVxK x) ∧ ∃ kedge mode, t = { s with kedge := kedge, mode := mode }) ∨
    ((∃ x nn, i = .rnd x nn) ∧ ∃ v pc rndIndex, t = { s with v := v, pc := pc, rndIndex := rndIndex }) := by
  cases i
  case ldBVx x => cases h; exact .inr (.inl ⟨⟨x, .inl rfl⟩, _, _, rfl⟩)
  case ldMemVx x => cases h; exact .inr (.inl ⟨⟨x, .inr rfl⟩, _, _, rfl⟩)
  case ldI n => cases h; exact .inr (.inr (.inl ⟨⟨n, 0, .inl rfl⟩, _, _, _, rfl⟩))
  case addIVx x => cases h; exact .inr (.inr (.inl ⟨⟨0, x, .inr (.inl rfl)⟩, _, _, _, rfl⟩))
  case ldFVx x => cases h; exact .inr (.inr (.inl ⟨⟨0, x, .inr (.inr rfl)⟩, _, _, _, rfl⟩))
  case call n => exact .inr (.inr (.inr (.inl ⟨⟨n, .inl rfl⟩, exec_call_frame h⟩)))
  case ret => exact .inr (.inr (.inr (.inl ⟨⟨0, .inr rfl⟩, exec_ret_frame h⟩)))
  case cls => cases h; exact .inr (.inr (.inr (.inr (.inl ⟨⟨0, 0, 0, .inl rfl⟩, _, _, _, _, rfl⟩))))
  case drw x y n => cases h; exact .inr (.inr (.inr (.inr (.inl ⟨⟨x, y, n, .inr rfl⟩, _, _, _, _, rfl⟩))))
  case ldDtVx x => cases h; exact .inr (.inr (.inr (.inr (.inr (.inl ⟨⟨x, rfl⟩, _, _, rfl⟩)))))
  case ldStVx x => cases h; exact .inr (.inr (.inr (.inr (.inr (.inr (.inl ⟨⟨x, rfl⟩, _, _, rfl⟩))))))
  case ldVxK x => cases h; exact .inr (.inr (.inr (.inr (.inr (.inr (.inr (.inl ⟨⟨x, rfl⟩, _, _, rfl⟩)))))))
  case rnd x nn => cases h; exact .inr (.inr (.inr (.inr (.inr (.inr (.inr (.inr ⟨⟨x, nn, rfl⟩, _, _, _, rfl⟩)))))))
  all_goals cases h; exact .inl ⟨_, _, rfl⟩

/-- Settles O14: the instruction changes one part at most. The clause of that part excludes the instruction by its premise, and
every other clause is about a field that the new state shares with the old. -/
theorem eachPartChangesOnlyUnderItsInstructions : Obligations.EachPartChangesOnlyUnderItsInstructions := by
  intro i s t h
  simp only [ne_eq, ← not_or, ← not_exists]
  obtain ⟨_, _, rfl⟩ | ⟨hi, _, _, rfl⟩ | ⟨hi, _, _, _, rfl⟩ | ⟨hi, _, _, _, _, _, rfl⟩ | ⟨hi, _, _, _, _, rfl⟩ |
    ⟨hi, _, _, rfl⟩ | ⟨hi, _, _, rfl⟩ | ⟨hi, _, _, rfl⟩ | ⟨hi, _, _, _, rfl⟩ := exec_frame_cases h
  · simp [MemorySame]
  all_goals simp [MemorySame, hi]

end Sys2Proof.Machine
end

section
/-! PROOFS, family other, 30_encoding: decode and encode are inverse to each other (R96), a row covers exactly the words of its
instructions (R94), and each rejection is its rule's (R101 to R104). -/

namespace Sys2Proof

/-- Settles O2: in each family the decoder's fields, put together again, are the word. -/
theorem encodeOfADecodedInstructionIsItsWord : Obligations.EncodeOfADecodedInstructionIsItsWord :=
  fun _ _ => encode_of_decode

/-! ### The families that decode by a sub-operation (R95) -/

theorem decode_of_family8 {w : Word} (hop : (opField w).toNat = 0x8) : decode w = decodeAlu w := by simp only [decode, hop]

theorem decode_of_familyE {w : Word} (hop : (opField w).toNat = 0xE) : decode w = decodeKey w := by simp only [decode, hop]

theorem decode_of_familyF {w : Word} (hop : (opField w).toNat = 0xF) : decode w = decodeMisc w := by simp only [decode, hop]

/-! ### Decoding a word of each format, from the fields it was made of (R92) -/

theorem decode_formatA {op : BitVec 4} {nnn : Addr12} {i : Instr}
    (h : ∀ w, (opField w).toNat = op.toNat → nnnField w = nnn → decode w = .ok i) : decode (formatA op nnn) = .ok i := by
  obtain ⟨hop, hnnn⟩ := fields_formatA op nnn
  exact h _ hop hnnn

theorem decode_formatXI {op : BitVec 4} {x : Reg} {nn : Byte} {i : Instr}
    (h : ∀ w, (opField w).toNat = op.toNat → xField w = x → nnField w = nn → decode w = .ok i) :
    decode (formatXI op x nn) = .ok i := by
  obtain ⟨hop, hx, hnn⟩ := fields_formatXI op x nn
  exact h _ hop hx hnn

theorem decode_formatXYN {op : BitVec 4} {x y n : Fin 16} {i : Instr}
    (h : ∀ w, (opField w).toNat = op.toNat → xField w = x → yField w = y → nField w = n → decode w = .ok i) :
    decode (formatXYN op x y n) = .ok i := by
  obtain ⟨hop, hx, hy, hn⟩ := fields_formatXYN op x y n
  exact h _ hop hx hy hn

/-- Decoding is a left inverse of encoding: the decoder reads the fields the encoder wrote, first the operation number, then in
families 8, E and F the sub-operation, then the operands. -/
theorem decode_encode (i : Instr) : decode (encode i) = .ok i := by
  cases i
  case cls | ret => rfl
  case jp | call | ldI | jpV0 => exact decode_formatA fun w hop hnnn => by simp only [decode, hop, hnnn]; rfl
  case seImm | sneImm | ldImm | addImm | rnd =>
    exact decode_formatXI fun w hop hx hnn => by simp only [decode, hop, hx, hnn]; rfl
  case skp | sknp =>
    exact decode_formatXI fun w hop hx hnn =>
      (decode_of_familyE hop).trans (by simp only [decodeKey, hx, hnn]; rfl)
  case ldVxDt | ldVxK | ldDtVx | ldStVx | addIVx | ldFVx | ldBVx | ldMemVx | ldVxMem =>
    exact decode_formatXI fun w hop hx hnn =>
      (decode_of_familyF hop).trans (by simp only [decodeMisc, hx, hnn]; rfl)
  case seReg | sneReg | drw => exact decode_formatXYN fun w hop hx hy hn => by simp only [decode, hop, hx, hy, hn]; rfl
  all_goals
    exact decode_formatXYN fun w hop hx hy hn =>
      (decode_of_family8 hop).trans (by simp only [decodeAlu, hx, hy, hn]; rfl)

/-- Settles O1: the decoder reads the fields the encoder wrote. -/
theorem decodeOfEncodeIsTheInstruction : Obligations.DecodeOfEncodeIsTheInstruction := decode_encode

/-! ### A word under a row's mask keeps the fields the mask covers (R94) -/

theorem opField_toNat_of_mask_op {w p : Word} (h : w &&& 0xF000#16 = p) : (opField w).toNat = p.toNat / 4096 := by
  rw [← opField_toNat p, ← h, opField, opField, BitVec.extractLsb'_and]
  exact congrArg BitVec.toNat BitVec.and_allOnes.symm

theorem opField_toNat_of_mask_n {w p : Word} (h : w &&& 0xF00F#16 = p) :
    (opField w).toNat = p.toNat / 4096 ∧ (nField w).val = p.toNat % 16 := by
  rw [← opField_toNat p, ← nField_val p, ← h, opField, opField, nField, nField, BitVec.extractLsb'_and,
    BitVec.extractLsb'_and]
  exact ⟨congrArg BitVec.toNat BitVec.and_allOnes.symm, congrArg BitVec.toNat BitVec.and_allOnes.symm⟩

theorem opField_toNat_of_mask_nn {w p : Word} (h : w &&& 0xF0FF#16 = p) :
    (opField w).toNat = p.toNat / 4096 ∧ (nnField w).toNat = p.toNat % 256 := by
  rw [← opField_toNat p, ← nnField_toNat p, ← h, opField, opField, nnField, nnField, BitVec.extractLsb'_and,
    BitVec.extractLsb'_and]
  exact ⟨congrArg BitVec.toNat BitVec.and_allOnes.symm, congrArg BitVec.toNat BitVec.and_allOnes.symm⟩

/-- A word that an instruction's row covers decodes to an instruction of that row: the mask fixes every field the decoder
selects by. -/
theorem exists_decode_of_covers {i : Instr} {w : Word} (h : (rowOf i).covers w = true) :
    ∃ j, decode w = .ok j ∧ rowOf j = rowOf i := by
  have hmask : w &&& (rowOf i).mask = (rowOf i).pattern := eq_of_beq h
  cases i
  case cls | ret =>
    obtain rfl : w = _ := BitVec.and_allOnes.symm.trans hmask
    exact ⟨_, rfl, rfl⟩
  case jp | call | seImm | sneImm | ldImm | addImm | ldI | jpV0 | rnd | drw =>
    simp only [rowOf, decode, opField_toNat_of_mask_op hmask]
    exact ⟨_, rfl, rfl⟩
  case skp | sknp =>
    obtain ⟨hop, hnn⟩ := opField_toNat_of_mask_nn hmask
    simp only [rowOf] at hop hnn
    simp only [decode_of_familyE hop, decodeKey, hnn]
    exact ⟨_, rfl, rfl⟩
  case ldVxDt | ldVxK | ldDtVx | ldStVx | addIVx | ldFVx | ldBVx | ldMemVx | ldVxMem =>
    obtain ⟨hop, hnn⟩ := opField_toNat_of_mask_nn hmask
    simp only [rowOf] at hop hnn
    simp only [decode_of_familyF hop, decodeMisc, hnn]
    exact ⟨_, rfl, rfl⟩
  case seReg | sneReg =>
    obtain ⟨hop, hn⟩ := opField_toNat_of_mask_n hmask
    simp only [rowOf, decode, hop, Fin.ext_iff, hn]
    exact ⟨_, rfl, rfl⟩
  all_goals
    obtain ⟨hop, hn⟩ := opField_toNat_of_mask_n hmask
    simp only [rowOf] at hop hn
    simp only [decode_of_family8 hop, decodeAlu, hn]
    exact ⟨_, rfl, rfl⟩

/-- A row of the opcode map covers exactly the words that decode to an instruction of the row. -/
theorem covers_iff_decode {w : Word} {row : OpcodeRow} (hrow : row ∈ opcodeTable) :
    row.covers w = true ↔ ∃ i, decode w = .ok i ∧ rowOf i = row := by
  constructor
  · obtain ⟨i, -, rfl⟩ := List.mem_map.mp hrow
    exact exists_decode_of_covers
  · rintro ⟨i, hd, rfl⟩
    exact rowOf_covers_of_decode hd

theorem opcodeTable_nodup : opcodeTable.Nodup := by decide

/-- Settles O3: a row covers the words that decode to it, and a word decodes to one instruction, so to one of the distinct rows. -/
theorem wordsDecodeToTheRowThatCoversThem : Obligations.WordsDecodeToTheRowThatCoversThem := by
  refine ⟨rfl, fun w row => covers_iff_decode, opcodeTable_nodup.imp_of_mem fun h₁ h₂ hne w ⟨hc₁, hc₂⟩ => hne ?_⟩
  obtain ⟨i, hi, hrow₁⟩ := (covers_iff_decode h₁).mp hc₁
  obtain ⟨j, hj, hrow₂⟩ := (covers_iff_decode h₂).mp hc₂
  cases hi.symm.trans hj
  exact hrow₁.symm.trans hrow₂

/-! ### The rule of each rejection (R101 to R104) -/

/-- The words that each rejection's rule makes invalid, in the arithmetic of R91. -/
def RejectedBy (w : Word) : InvalidWord → Prop
  | .family0 => w.toNat / 4096 = 0 ∧ w ≠ 0x00E0#16 ∧ w ≠ 0x00EE#16
  | .skipNibble => (w.toNat / 4096 = 5 ∨ w.toNat / 4096 = 9) ∧ w.toNat % 16 ≠ 0
  | .aluNibble => w.toNat / 4096 = 8 ∧ w.toNat % 16 ∈ [0x8, 0x9, 0xA, 0xB, 0xC, 0xD, 0xF]
  | .keyByte => w.toNat / 4096 = 0xE ∧ w.toNat % 256 ∉ [0x9E, 0xA1]
  | .miscByte => w.toNat / 4096 = 0xF ∧ w.toNat % 256 ∉ [0x07, 0x0A, 0x15, 0x18, 0x1E, 0x29, 0x33, 0x55, 0x65]
  | .tooShort => False

theorem decodeAlu_error {w : Word} {e : InvalidWord} (hop : w.toNat / 4096 = 0x8) (h : decodeAlu w = .error e) :
    RejectedBy w e := by
  unfold decodeAlu at h
  simp only [nField_val] at h
  split at h <;> cases h
  refine ⟨hop, ?_⟩
  simp only [List.mem_cons, List.not_mem_nil, or_false]
  simp only [imp_false] at *
  omega

theorem decodeKey_error {w : Word} {e : InvalidWord} (hop : w.toNat / 4096 = 0xE) (h : decodeKey w = .error e) :
    RejectedBy w e := by
  unfold decodeKey at h
  simp only [nnField_toNat] at h
  split at h <;> cases h
  exact ⟨hop, by simp_all⟩

theorem decodeMisc_error {w : Word} {e : InvalidWord} (hop : w.toNat / 4096 = 0xF) (h : decodeMisc w = .error e) :
    RejectedBy w e := by
  unfold decodeMisc at h
  simp only [nnField_toNat] at h
  split at h <;> cases h
  exact ⟨hop, by simp_all⟩

/-- A word the decoder rejects is one the rule of the rejection makes invalid. -/
theorem rejectedBy_of_decode_error {w : Word} {e : InvalidWord} (h : decode w = .error e) : RejectedBy w e := by
  unfold decode at h
  simp only [opField_toNat] at h
  split at h
  case h_1 hop =>
    split at h
    next => cases h
    next hcls =>
      split at h
      next => cases h
      next hret => cases h; exact ⟨hop, hcls, hret⟩
  case h_6 hop =>
    split at h
    next => cases h
    next hn => cases h; exact ⟨.inl hop, fun h0 => hn (Fin.ext ((nField_val w).trans h0))⟩
  case h_10 hop =>
    split at h
    next => cases h
    next hn => cases h; exact ⟨.inr hop, fun h0 => hn (Fin.ext ((nField_val w).trans h0))⟩
  case h_9 hop => exact decodeAlu_error hop h
  case h_15 hop => exact decodeKey_error hop h
  case h_16 =>
    have hop : w.toNat / 4096 = 0xF := by
      have := w.isLt
      simp only [imp_false] at *
      omega
    exact decodeMisc_error hop h
  all_goals cases h

/-- No word a rejection's rule makes invalid is well formed (R100). -/
theorem wordWellFormed_of_rejectedBy {w : Word} {e : InvalidWord} (h : RejectedBy w e) : wordWellFormed w = false := by
  cases e with
  | family0 =>
    obtain ⟨hop, hcls, hret⟩ := h
    simp [wordWellFormed, hop, family0Ok, hcls, hret]
  | skipNibble =>
    obtain ⟨hop | hop, hn⟩ := h <;> simp [wordWellFormed, hop, skipRegOk, hn]
  | aluNibble =>
    obtain ⟨hop, hn⟩ := h
    simp only [List.mem_cons, List.not_mem_nil, or_false] at hn
    simp [wordWellFormed, hop, aluOk]
    omega
  | keyByte =>
    obtain ⟨hop, hnn⟩ := h
    simpa [wordWellFormed, hop, keyOk] using hnn
  | miscByte =>
    obtain ⟨hop, hnn⟩ := h
    simpa [wordWellFormed, hop, miscOk] using hnn
  | tooShort => exact h.elim

/-- A word that is not well formed is one that some rejection's rule makes invalid. -/
theorem exists_rejectedBy_of_not_wellFormed {w : Word} (h : wordWellFormed w = false) : ∃ e, RejectedBy w e := by
  unfold wordWellFormed at h
  split at h
  next hop => exact ⟨.family0, hop, by simpa [family0Ok] using h⟩
  next hop => exact ⟨.skipNibble, .inl hop, by simpa [skipRegOk] using h⟩
  next hop =>
    refine ⟨.aluNibble, hop, ?_⟩
    simp only [aluOk, Bool.or_eq_false_iff, decide_eq_false_iff_not, beq_eq_false_iff_ne] at h
    simp only [List.mem_cons, List.not_mem_nil, or_false]
    omega
  next hop => exact ⟨.skipNibble, .inr hop, by simpa [skipRegOk] using h⟩
  next hop => exact ⟨.keyByte, hop, by simpa [keyOk] using h⟩
  next hop => exact ⟨.miscByte, hop, by simpa [miscOk] using h⟩
  next => cases h

theorem decode_error_of_rejectedBy {w : Word} {e : InvalidWord} (h : RejectedBy w e) : decode w = .error e := by
  cases e with
  | family0 =>
    obtain ⟨hop, hcls, hret⟩ := h
    simp [decode, opField_toNat, hop, hcls, hret]
  | skipNibble =>
    obtain ⟨hop | hop, hn⟩ := h <;> simp [decode, opField_toNat, hop, Fin.ext_iff, nField_val, hn]
  | aluNibble =>
    obtain ⟨hop, hn⟩ := h
    simp only [List.mem_cons, List.not_mem_nil, or_false] at hn
    rw [decode_of_family8 ((opField_toNat w).trans hop)]
    simp only [decodeAlu, nField_val]
    obtain hn | hn | hn | hn | hn | hn | hn := hn <;> simp only [hn]
  | keyByte =>
    obtain ⟨hop, hnn⟩ := h
    rw [decode_of_familyE ((opField_toNat w).trans hop)]
    simp only [decodeKey, nnField_toNat]
    split <;> simp_all
  | miscByte =>
    obtain ⟨hop, hnn⟩ := h
    rw [decode_of_familyF ((opField_toNat w).trans hop)]
    simp only [decodeMisc, nnField_toNat]
    split <;> simp_all
  | tooShort => exact h.elim

/-- Each rejection happens exactly on the words its rule makes invalid. -/
theorem decode_error_iff {w : Word} {e : InvalidWord} : decode w = .error e ↔ RejectedBy w e :=
  ⟨rejectedBy_of_decode_error, decode_error_of_rejectedBy⟩

theorem wordWellFormed_eq_false_iff {w : Word} : wordWellFormed w = false ↔ ∃ e, RejectedBy w e :=
  ⟨exists_rejectedBy_of_not_wellFormed, fun ⟨_, he⟩ => wordWellFormed_of_rejectedBy he⟩

/-- The decoder accepts exactly the well-formed words (R95, R100). -/
theorem exists_decode_ok_iff {w : Word} : (∃ i, decode w = .ok i) ↔ wordWellFormed w = true := by
  cases hd : decode w with
  | error e => simp [wordWellFormed_eq_false_iff.mpr ⟨e, decode_error_iff.mp hd⟩]
  | ok i =>
    have hwf : wordWellFormed w ≠ false := fun h => by
      obtain ⟨e, he⟩ := wordWellFormed_eq_false_iff.mp h
      cases hd.symm.trans (decode_error_iff.mpr he)
    simpa using hwf

/-- Settles O4: five rejections by their rules; none is for want of bytes; and the words left over are the well-formed ones. -/
theorem eachInvalidWordIsRejectedByItsRule : Obligations.EachInvalidWordIsRejectedByItsRule :=
  fun _ => ⟨decode_error_iff, decode_error_iff, decode_error_iff, decode_error_iff, decode_error_iff,
    fun h => decode_error_iff.mp h, exists_decode_ok_iff⟩

/-- Settles O5: each word is the encoding of the instruction it stands for. -/
theorem wordsWrittenFromTheMapDecode : Obligations.WordsWrittenFromTheMapDecode :=
  ⟨decode_encode .cls, decode_encode (.jp 0xABC), decode_encode (.seImm 3 0x42), decode_encode (.sneReg 1 2),
    decode_encode (.ldImm 0xA 0x42), decode_encode (.subn 0xF 0xE), decode_encode (.ldI 0x300), decode_encode (.drw 1 2 5),
    decode_encode (.sknp 5), decode_encode (.ldVxK 3)⟩

end Sys2Proof
end


section
/-! PROOFS, family other, 40_cycle and 60_exceptions: every operation is total (R260), what a STEP runs (R124, R126), the fixed
points of the machine (R126, R128), and the two invariants. -/

namespace Sys2Proof.Machine

/-! ### Every operation answers a next state (R260, R264, R290) -/

theorem exec_total (i : Instr) (s : State) : ∃ t, exec i s = .next t := by
  cases i
  case ret => obtain ⟨_, h⟩ | ⟨_, h⟩ := execRet_cases s <;> exact ⟨_, h⟩
  case call nnn => obtain ⟨_, h⟩ | ⟨_, h⟩ := execCall_cases nnn s <;> exact ⟨_, h⟩
  all_goals exact ⟨_, rfl⟩

theorem stepOperation_total (s : State) : ∃ t, stepOperation s = .next t := by
  cases hm : s.mode with
  | halted => exact ⟨_, stepOperation_of_halted hm⟩
  | awaitingKey x => exact ⟨_, stepOperation_of_awaitingKey hm⟩
  | running =>
    cases hd : decode (wordAtPc s) with
    | ok i => rw [stepOperation_of_decode_ok hm hd]; exact exec_total i s
    | error e => exact ⟨_, stepOperation_of_decode_error hm hd⟩

theorem perform_total (r : Request) (s : State) : ∃ t, perform r s = .next t := by
  cases r
  case step => exact stepOperation_total s
  all_goals exact ⟨_, rfl⟩

/-- Settles O9: a step is a STEP or the performing of a request, and each is total. -/
theorem everyStepAnswersANextState : Obligations.EveryStepAnswersANextState := by
  intro s
  cases hr : s.requests with
  | nil => rw [step_of_no_request hr]; exact stepOperation_total s
  | cons r rest => rw [step_of_request hr]; exact perform_total r _

/-! ### What a STEP in `RUNNING` runs (R124) -/

theorem step_of_decode_ok {s : State} {i : Instr} (hs : Fetching s) (hd : decode (wordAtPc s) = .ok i) : step s = exec i s := by
  obtain ⟨hr, hm⟩ := hs
  rw [step_of_no_request hr, stepOperation_of_decode_ok hm hd]

/-- Settles O6: a valid word's STEP is its instruction, an invalid word's the entry of its fault. -/
theorem stepRunsTheDecodedInstruction : Obligations.StepRunsTheDecodedInstruction :=
  fun _ hs => ⟨fun _ => step_of_decode_ok hs, fun _ => step_of_decode_error hs⟩

/-! ### Fixed points (R126, R128) -/

/-- A state whose step is the state itself is where every run from it ends. -/
theorem run_of_step_eq_self {s : State} (h : step s = .next s) (n : Nat) : core.run n s = .next s := by
  induction n with
  | zero => rfl
  | succ n ih =>
    have hcore : core.step s = .next s := h
    simp only [Host.Core.run, hcore, ih]

/-- Settles O8: a STEP in `HALTED` is the identity. -/
theorem haltedCoreStaysAsItIs : Obligations.HaltedCoreStaysAsItIs :=
  fun _ n hr hm => run_of_step_eq_self ((step_of_no_request hr).trans (stepOperation_of_halted hm)) n

/-- Settles O26: the jump sets the program counter to the value it has. -/
theorem selfJumpIsAFixedPoint : Obligations.SelfJumpIsAFixedPoint := by
  intro s nnn n hs hd hpc
  have htarget : address nnn = s.pc := BitVec.eq_of_toNat_eq ((address_toNat nnn).trans hpc.symm)
  have hjump : exec (.jp nnn) s = .next (s.jump (address nnn)) := rfl
  rw [htarget] at hjump
  exact run_of_step_eq_self ((step_of_decode_ok hs hd).trans hjump) n

/-! ### Invariants of every step -/

/-- What every operation keeps and the queue has no part in, every step keeps. -/
theorem step_keeps {P : State → Prop} (hqueue : ∀ s rest, P s → P { s with requests := rest })
    (hperform : ∀ r s t, P s → perform r s = .next t → P t) {s t : State} (hs : P s) (h : step s = .next t) : P t := by
  obtain ⟨-, hstep⟩ | ⟨r, rest, -, hr⟩ := step_cases h
  · exact hperform .step s t hs hstep
  · exact hperform r _ t (hqueue s rest hs) hr

/-- What an instruction does to memory: nothing, or a transfer to `I` and the bytes after it (R69). -/
theorem exec_mem_cases {i : Instr} {s t : State} (h : exec i s = .next t) :
    t.mem = s.mem ∨ ∃ xs, t.mem = storeBytes s.mem s.index 0 xs := by
  by_cases hi : ∃ x, i = .ldBVx x ∨ i = .ldMemVx x
  · obtain ⟨x, rfl | rfl⟩ := hi <;> cases h <;> exact .inr ⟨_, rfl⟩
  · obtain ⟨hmem, -⟩ := eachPartChangesOnlyUnderItsInstructions i s t h
    refine .inl (hmem fun x => ⟨fun hx => hi ⟨x, .inl hx⟩, fun hx => hi ⟨x, .inr hx⟩⟩).1

@[simp] theorem keyWaitPoll_mem (x : Reg) (s : State) : (keyWaitPoll x s).mem = s.mem := by
  obtain ⟨k, -, hpoll⟩ | ⟨-, hpoll⟩ := keyWaitPoll_cases x s
  · rw [hpoll, State.advance_mem, State.setReg_mem]
  · rw [hpoll]

theorem stepOperation_keeps_wf {s t : State} (hwf : Memory.wf s.mem = true) (h : stepOperation s = .next t) :
    Memory.wf t.mem = true := by
  obtain ⟨-, rfl⟩ | ⟨x, -, rfl⟩ | ⟨-, i, -, hexec⟩ | ⟨-, e, -, rfl⟩ := stepOperation_cases h
  · exact hwf
  · rwa [keyWaitPoll_mem]
  · obtain hmem | ⟨xs, hmem⟩ := exec_mem_cases hexec <;> rw [hmem]
    · exact hwf
    · exact storeBytes_wf hwf _ _ _
  · rwa [raiseFault_mem]

theorem loadProgram_wf {s : State} (bytes : List Byte) (hwf : Memory.wf s.mem = true) :
    Memory.wf (loadProgram bytes s).mem = true := by
  unfold loadProgram
  split
  · exact hwf
  · exact storeBytes_wf hwf _ _ _

theorem perform_keeps_wf {r : Request} {s t : State} (hwf : Memory.wf s.mem = true) (h : perform r s = .next t) :
    Memory.wf t.mem = true := by
  cases r with
  | step => exact stepOperation_keeps_wf hwf h
  | reset => cases h; exact resetMemory_wf s.font
  | load bytes => cases h; exact loadProgram_wf bytes hwf
  | tick | key | ack => cases h; exact hwf

/-- Settles O16: an operation leaves memory, makes a transfer to it, or sets it to the reset memory. -/
theorem stepKeepsMemoryCanonical : Obligations.StepKeepsMemoryCanonical :=
  fun _ _ => step_keeps (P := fun s => Memory.wf s.mem = true) (fun _ _ => id) (fun _ _ _ => perform_keeps_wf)

/-! ### The fault record agrees with the run mode (R37, R262, R264) -/

theorem faultRecordAgrees_of_not_halted {s : State} (hm : s.mode ≠ .halted) : FaultRecordAgrees s ↔ s.fault = .clear := by
  rw [FaultRecordAgrees, if_neg hm]

theorem faultRecordAgrees_congr {s t : State} (hmode : t.mode = s.mode) (hfault : t.fault = s.fault) (hpc : t.pc = s.pc)
    (hsp : t.sp = s.sp) : FaultRecordAgrees t ↔ FaultRecordAgrees s := by
  simp only [FaultRecordAgrees, hmode, hfault, hpc, hsp]

theorem invalidOpcode_agrees {w : Word} {e : InvalidWord} (s : State) (h : decode w = .error e) :
    FaultRecordAgrees (raiseFault .invalidOpcode w s) := by
  rw [FaultRecordAgrees, if_pos (raiseFault_mode _ _ s)]
  exact ⟨rfl, wordWellFormed_eq_false_iff.mpr ⟨e, decode_error_iff.mp h⟩⟩

theorem encode_call_toNat (nnn : Addr12) : (encode (.call nnn)).toNat = 0x2000 + nnn.toNat := formatA_toNat 0x2#4 nnn

theorem stackOverflow_agrees {s : State} (nnn : Addr12) (h : s.sp = 16) :
    FaultRecordAgrees (raiseFault .stackOverflow (encode (.call nnn)) s) := by
  rw [FaultRecordAgrees, if_pos (raiseFault_mode _ _ s)]
  refine ⟨rfl, ?_, h⟩
  rw [raiseFault_fault, encode_call_toNat]
  omega

theorem stackUnderflow_agrees {s : State} (h : s.sp = 0) :
    FaultRecordAgrees (raiseFault .stackUnderflow (encode .ret) s) := by
  rw [FaultRecordAgrees, if_pos (raiseFault_mode _ _ s)]
  exact ⟨rfl, rfl, h⟩

/-- An instruction runs with the fault record clear, and leaves it clear unless it enters a stack fault. -/
theorem exec_keeps_agreement {i : Instr} {s t : State} (hm : s.mode = .running) (hs : s.fault = .clear)
    (h : exec i s = .next t) : FaultRecordAgrees t := by
  obtain ⟨hmode, hfault⟩ | ⟨x, -, hmode, hfault⟩ | ⟨n, -, hsp, rfl⟩ | ⟨-, hsp, rfl⟩ := exec_mode_cases h
  · exact (faultRecordAgrees_of_not_halted (by simp [hmode, hm])).mpr (hfault.trans hs)
  · exact (faultRecordAgrees_of_not_halted (by simp [hmode])).mpr (hfault.trans hs)
  · exact stackOverflow_agrees n hsp
  · exact stackUnderflow_agrees hsp

/-- A poll of the wait ends it or changes nothing, and writes no fault record. -/
theorem keyWaitPoll_keeps_agreement {x : Reg} {s : State} (hm : s.mode = .awaitingKey x) (hs : s.fault = .clear) :
    FaultRecordAgrees (keyWaitPoll x s) := by
  obtain ⟨k, -, hpoll⟩ | ⟨-, hpoll⟩ := keyWaitPoll_cases x s <;> rw [hpoll]
  · exact (faultRecordAgrees_of_not_halted (by simp)).mpr hs
  · exact (faultRecordAgrees_of_not_halted (by simp [hm])).mpr hs

theorem stepOperation_keeps_agreement {s t : State} (hs : FaultRecordAgrees s) (h : stepOperation s = .next t) :
    FaultRecordAgrees t := by
  obtain ⟨-, rfl⟩ | ⟨x, hm, rfl⟩ | ⟨hm, i, -, hexec⟩ | ⟨-, e, hd, rfl⟩ := stepOperation_cases h
  · exact hs
  · exact keyWaitPoll_keeps_agreement hm ((faultRecordAgrees_of_not_halted (by simp [hm])).mp hs)
  · exact exec_keeps_agreement hm ((faultRecordAgrees_of_not_halted (by simp [hm])).mp hs) hexec
  · exact invalidOpcode_agrees s hd

theorem resetWith_agrees (font : Vector Byte 80) (s : State) : FaultRecordAgrees (resetWith font s) :=
  (faultRecordAgrees_of_not_halted (s := resetWith font s) (by simp [resetWith, State.reset])).mpr rfl

theorem loadProgram_keeps_agreement {s : State} (bytes : List Byte) (hs : FaultRecordAgrees s) :
    FaultRecordAgrees (loadProgram bytes s) := by
  unfold loadProgram
  split <;> exact (faultRecordAgrees_congr rfl rfl rfl rfl).mpr hs

theorem perform_keeps_agreement {r : Request} {s t : State} (hs : FaultRecordAgrees s) (h : perform r s = .next t) :
    FaultRecordAgrees t := by
  cases r with
  | step => exact stepOperation_keeps_agreement hs h
  | reset => cases h; exact resetWith_agrees s.font s
  | load bytes => cases h; exact loadProgram_keeps_agreement bytes hs
  | tick | key | ack => cases h; exact (faultRecordAgrees_congr rfl rfl rfl rfl).mpr hs

/-- Settles O17: each fault entry writes a record that agrees, RESET clears it, and no other operation touches the record or
changes a halted core's mode, program counter or `SP`. -/
theorem stepKeepsFaultRecordInAgreement : Obligations.StepKeepsFaultRecordInAgreement :=
  fun _ _ => step_keeps (fun _ _ => id) (fun _ _ _ => perform_keeps_agreement)

/-- Settles O18: the reset memory is canonical under every `FONT`, and RESET clears the fault record. -/
theorem resetStateMeetsTheInvariants : Obligations.ResetStateMeetsTheInvariants := by
  refine ⟨rfl, ?_, fun font => ⟨resetMemory_wf font, resetWith_agrees font _⟩⟩
  rw [← State.created_default]
  exact resetWith_agrees _ _

/-! ### The call stack when there is room and when there is an entry (R140, R142) -/

theorem exec_call_of_room {s : State} (nnn : Addr12) (h : s.sp.val < 16) :
    exec (.call nnn) s = .next (State.jump
      { s with stack := s.stack.set s.sp.val s.pc, sp := ⟨s.sp.val + 1, by omega⟩ } (address nnn)) := by
  obtain ⟨_, hcall⟩ | ⟨hfull, -⟩ := execCall_cases nnn s
  · exact hcall
  · simp [hfull] at h

theorem exec_ret_of_entry {s : State} (h : 0 < s.sp.val) :
    exec .ret s = .next (State.jump { s with sp := ⟨s.sp.val - 1, by omega⟩ } ((s.stack[s.sp.val - 1]'(by omega)) + 2)) := by
  obtain ⟨_, hret⟩ | ⟨hempty, -⟩ := execRet_cases s
  · exact hret
  · simp [hempty] at h

/-- Settles O21: a push writes the entry at `SP` and no other. -/
theorem callPushesItsAddressAndJumps : Obligations.CallPushesItsAddressAndJumps := by
  intro s nnn h
  refine ⟨_, exec_call_of_room nnn h, rfl, address_toNat nnn, rfl, ?_, fun j hj hne => ?_, fun _ => rfl⟩
  · exact Vector.getElem_set_self h
  · exact Vector.getElem_set_ne h hj hne.symm

/-- Settles O22: a pop lowers `SP` and leaves the stack. -/
theorem returnResumesPastTheCallSite : Obligations.ReturnResumesPastTheCallSite :=
  fun _ h => ⟨_, exec_ret_of_entry h, rfl, rfl, BitVec.toNat_add _ 2, fun _ => rfl⟩

/-- A return with `n + 1` entries on the stack pops entry `n`. -/
theorem exec_ret_of_succ {s t : State} {n : Nat} (hn : n < 16) (hsp : s.sp.val = n + 1) (h : exec .ret s = .next t) :
    t.pc = s.stack[n] + 2 ∧ t.sp.val = n ∧ t.stack = s.stack := by
  cases (exec_ret_of_entry (hsp ▸ Nat.succ_pos n)).symm.trans h
  simp [hsp]

/-- Settles O23: the return pops the entry that the call pushed, and the entries below it are the caller's. -/
theorem callThenReturnResumesTheCaller : Obligations.CallThenReturnResumesTheCaller := by
  intro s t u w nnn hroom hcall hstack hsp hret
  cases (exec_call_of_room nnn hroom).symm.trans hcall
  obtain ⟨hpc, hspw, hstackw⟩ := exec_ret_of_succ hroom (congrArg Fin.val hsp) hret
  refine ⟨?_, Fin.ext hspw, fun j hj => ?_⟩
  · simp only [hpc, hstack, State.jump_stack, Vector.getElem_set_self]
    exact BitVec.toNat_add s.pc 2
  · simp only [hstackw, hstack, State.jump_stack]
    exact Vector.getElem_set_ne hroom (by omega) (by omega)

/-- Settles O25: a stack fault records the instruction's encoding, which for `2NNN` is 0x2000 plus its address. -/
theorem faultEntryChangesOnlyRecordAndMode : Obligations.FaultEntryChangesOnlyRecordAndMode :=
  ⟨fun _ nnn h => ⟨encode (.call nnn), encode_call_toNat nnn, exec_call_of_full nnn h⟩,
    fun _ h => exec_ret_of_empty h, fun _ _ => ⟨rfl, rfl, rfl⟩⟩

/-! ### State that no instruction reads (R31, R34, R38, R39, R42, R121, R122) -/

section
variable {s t : State} (st : Byte) (kedge : Vector Bool 16) (dirty loadErr : Bool) (font : Vector Byte 80)
  (requests : List Request)

theorem exec_call_of_unread {nnn : Addr12} (h : exec (.call nnn) s = .next t) :
    exec (.call nnn) { s with
      st := st, kedge := kedge, dirty := dirty, loadErr := loadErr, font := font, requests := requests } =
    .next { t with st := st, kedge := kedge, dirty := dirty, loadErr := loadErr, font := font, requests := requests } := by
  obtain ⟨hroom, hcall⟩ | ⟨hfull, hcall⟩ := execCall_cases nnn s <;> cases hcall.symm.trans h
  · exact exec_call_of_room nnn (by exact hroom)
  · exact exec_call_of_full nnn (by exact hfull)

theorem exec_ret_of_unread (h : exec .ret s = .next t) :
    exec .ret { s with
      st := st, kedge := kedge, dirty := dirty, loadErr := loadErr, font := font, requests := requests } =
    .next { t with st := st, kedge := kedge, dirty := dirty, loadErr := loadErr, font := font, requests := requests } := by
  obtain ⟨hentry, hret⟩ | ⟨hempty, hret⟩ := execRet_cases s <;> cases hret.symm.trans h
  · exact exec_ret_of_entry (by exact hentry)
  · exact exec_ret_of_empty (by exact hempty)

end

/-- Settles O15: but for the four instructions that set one of these fields, an instruction's next state is an update of the given
state by values that none of the fields is in. -/
theorem unreadStateDoesNotInfluenceInstructions : Obligations.UnreadStateDoesNotInfluenceInstructions := by
  intro i s t st kedge dirty loadErr font hi h
  cases i
  case ldStVx x => exact absurd rfl (hi x 0 0).1
  case ldVxK x => exact absurd rfl (hi x 0 0).2.1
  case cls => exact absurd rfl (hi 0 0 0).2.2.1
  case drw x y n => exact absurd rfl (hi x y n).2.2.2
  case call nnn =>
    obtain ⟨_, _, _, _, _, rfl⟩ := exec_call_frame h
    exact exec_call_of_unread st kedge dirty loadErr font s.requests h
  case ret =>
    obtain ⟨_, _, _, _, _, rfl⟩ := exec_ret_frame h
    exact exec_ret_of_unread st kedge dirty loadErr font s.requests h
  all_goals cases h; rfl

/-- No instruction's effect depends on the waiting requests, which it leaves as they are. -/
theorem exec_with_requests {i : Instr} {s t : State} (h : exec i s = .next t) (rest : List Request) :
    exec i { s with requests := rest } = .next { t with requests := rest } := by
  cases i
  case call nnn =>
    obtain ⟨_, _, _, _, _, rfl⟩ := exec_call_frame h
    exact exec_call_of_unread s.st s.kedge s.dirty s.loadErr s.font rest h
  case ret =>
    obtain ⟨_, _, _, _, _, rfl⟩ := exec_ret_frame h
    exact exec_ret_of_unread s.st s.kedge s.dirty s.loadErr s.font rest h
  all_goals cases h; rfl

theorem exec_requests {i : Instr} {s t : State} (h : exec i s = .next t) : t.requests = s.requests := by
  obtain ⟨-, -, -, -, -, -, -, -, -, -, -, -, hrequests⟩ := eachPartChangesOnlyUnderItsInstructions i s t h
  exact hrequests

@[simp] theorem keyWaitPoll_requests (x : Reg) (s : State) : (keyWaitPoll x s).requests = s.requests := by
  obtain ⟨k, -, hpoll⟩ | ⟨-, hpoll⟩ := keyWaitPoll_cases x s
  · rw [hpoll, State.advance_requests, State.setReg_requests]
  · rw [hpoll]

theorem keyWaitPoll_with_requests (x : Reg) (s : State) (rest : List Request) :
    keyWaitPoll x { s with requests := rest } = { keyWaitPoll x s with requests := rest } := by
  simp only [keyWaitPoll]
  split <;> rfl

/-- A STEP leaves the waiting requests. -/
theorem stepOperation_requests {s t : State} (h : stepOperation s = .next t) : t.requests = s.requests := by
  obtain ⟨-, rfl⟩ | ⟨x, -, rfl⟩ | ⟨-, i, -, hexec⟩ | ⟨-, e, -, rfl⟩ := stepOperation_cases h
  · rfl
  · exact keyWaitPoll_requests x s
  · exact exec_requests hexec
  · exact raiseFault_requests _ _ s

/-- A STEP does the same whatever requests wait. -/
theorem stepOperation_with_requests {s t : State} (h : stepOperation s = .next t) (rest : List Request) :
    stepOperation { s with requests := rest } = .next { t with requests := rest } := by
  obtain ⟨hm, rfl⟩ | ⟨x, hm, rfl⟩ | ⟨hm, i, hd, hexec⟩ | ⟨hm, e, hd, rfl⟩ := stepOperation_cases h
  · exact stepOperation_of_halted hm
  · rw [stepOperation_of_awaitingKey (s := { s with requests := rest }) hm, keyWaitPoll_with_requests]
  · rw [fetchWord_eq] at hd
    rw [stepOperation_of_decode_ok (s := { s with requests := rest }) hm hd]
    exact exec_with_requests hexec rest
  · rw [fetchWord_eq] at hd ⊢
    exact stepOperation_of_decode_error hm hd

/-- Settles O10: the driving loop's STEP and a requested one are the same operation, which the queue has no part in. -/
theorem waitingRequestsDoNotInfluenceAStep : Obligations.WaitingRequestsDoNotInfluenceAStep := by
  intro s t rest h
  rw [step_of_no_request rfl] at h
  refine ⟨stepOperation_requests h, ?_⟩
  rw [step_of_request rfl]
  exact stepOperation_with_requests h rest

/-! ### The registers an instruction writes (R22) -/

/-- A byte of a transfer from `I` is the byte at its address (R66). -/
theorem loadByte_eq (m : Memory) (base : Word) (k : Nat) : loadByte m base k = Memory.read m (dataAddr base k) := rfl

/-- After `FX65` a register holds its byte of memory, or above `V[x]` what it held (R205). -/
theorem reg_regsLoaded (s : State) (x r : Reg) :
    State.reg { s with v := regsLoaded s x } r = if r ≤ x then Memory.read s.mem (dataAddr s.index r.val) else s.reg r := by
  simp only [State.reg, regsLoaded, Vector.getElem_ofFn, loadByte_eq]

/-- Settles O13: an instruction's register writes are one `setReg`, one with the flag after it, the flag alone, or the registers
that `FX65` loads, and each is in the instruction's row. -/
theorem onlyTheListedRegistersAreWritten : Obligations.OnlyTheListedRegistersAreWritten := by
  intro i s t r h hr
  cases i <;> simp only [mayWrite] at hr
  case call => obtain ⟨_, _, _, _, _, rfl⟩ := exec_call_frame h; rfl
  case ret => obtain ⟨_, _, _, _, _, rfl⟩ := exec_ret_frame h; rfl
  case ldImm | addImm | ldReg | orReg | andReg | xorReg | rnd | ldVxDt =>
    cases h
    exact (State.reg_setReg _ _ r _).trans (if_neg hr)
  case addReg | sub | shr | subn | shl =>
    obtain ⟨hx, hflag⟩ := not_or.mp hr
    cases h
    rw [State.reg_advance, State.reg_setFlag, if_neg hflag, State.reg_setReg, if_neg hx]
  case drw | addIVx =>
    cases h
    exact (State.reg_setFlag _ r _).trans (if_neg hr)
  case ldVxMem =>
    cases h
    rw [State.reg_advance, reg_regsLoaded, if_neg hr]
  all_goals cases h; rfl

end Sys2Proof.Machine
end

section
/-! PROOFS, family other, 42_alu and 43_index_memory: the operations that write a register, one that writes VF after it (R173 to
R181), and the index register and the transfers (R200, R201, R204, R205). -/

namespace Sys2Proof.Machine

/-! ### The shape of a write to one register and then to VF -/

/-- An instruction that sets `V[x]`, then VF, and advances writes those two registers, VF last, and leaves everything else. -/
theorem writesRegThenFlag_of_exec {i : Instr} {s : State} {x : Reg} {r f : Byte} {value flag : Nat}
    (h : exec i s = .next ((s.setReg x r).setFlag f).advance) (hr : r.toNat = value) (hf : f.toNat = flag) :
    WritesRegThenFlag i x value flag s := by
  refine ⟨_, h, rfl, advanced_of_pc_eq rfl, fun q => ?_, fun _ => rfl⟩
  rw [State.reg_advance, State.reg_setFlag, State.reg_setReg, apply_ite BitVec.toNat, apply_ite BitVec.toNat, hr, hf]

/-! ### Flags and results as numbers (R35) -/

theorem flagByte_decide_toNat (p : Prop) [Decidable p] : (flagByte (decide p)).toNat = if p then 1 else 0 := by
  simp only [flagByte_toNat, decide_eq_true_eq]

theorem sub_toNat (a b : Byte) : (a - b).toNat = (256 + a.toNat - b.toNat) % 256 := by
  rw [BitVec.toNat_sub]
  omega

theorem lowBitFlag_toNat (b : Byte) : (lowBitFlag b).toNat = b.toNat % 2 := by
  rw [lowBitFlag, BitVec.toNat_and]
  exact Nat.and_one_is_mod b.toNat

theorem highBitFlag_toNat (b : Byte) : (highBitFlag b).toNat = b.toNat / 128 := by
  rw [highBitFlag, BitVec.toNat_ushiftRight, Nat.shiftRight_eq_div_pow]

theorem shiftLeft_one_toNat (b : Byte) : (b <<< 1).toNat = b.toNat * 2 % 256 := by
  rw [BitVec.toNat_shiftLeft, Nat.shiftLeft_eq]

theorem shiftRight_one_toNat (b : Byte) : (b >>> 1).toNat = b.toNat / 2 := by
  rw [BitVec.toNat_ushiftRight, Nat.shiftRight_eq_div_pow]

/-- Settles O28: each logic operation sets `V[x]` and advances, and writes no flag. -/
theorem logicOperationsLeaveTheFlag : Obligations.LogicOperationsLeaveTheFlag :=
  fun _ _ _ => ⟨writesOneReg_of_exec rfl (BitVec.toNat_or _ _), writesOneReg_of_exec rfl (BitVec.toNat_and _ _),
    writesOneReg_of_exec rfl (BitVec.toNat_xor _ _)⟩

/-- Settles O29: the sum wraps, and the flag looks at the unreduced sum. -/
theorem registerAddCarriesIntoTheFlag : Obligations.RegisterAddCarriesIntoTheFlag :=
  fun _ _ _ => writesRegThenFlag_of_exec rfl (BitVec.toNat_add _ _) (flagByte_decide_toNat _)

/-- Settles O30: the two differences wrap, and the flag compares minuend and subtrahend. -/
theorem subtractsSetTheFlagWhenNoBorrow : Obligations.SubtractsSetTheFlagWhenNoBorrow :=
  fun _ _ _ => ⟨writesRegThenFlag_of_exec rfl (sub_toNat _ _) (flagByte_decide_toNat _),
    writesRegThenFlag_of_exec rfl (sub_toNat _ _) (flagByte_decide_toNat _)⟩

/-- Settles O31: both shifts read `V[y]` alone, and the flag is its low or its high bit. -/
theorem shiftsMoveTheYRegister : Obligations.ShiftsMoveTheYRegister :=
  fun _ _ _ => ⟨writesRegThenFlag_of_exec rfl (shiftRight_one_toNat _) (lowBitFlag_toNat _),
    writesRegThenFlag_of_exec rfl (shiftLeft_one_toNat _) (highBitFlag_toNat _)⟩

/-! ### The random byte (R181) -/

/-- A masked byte has no bit outside its mask. -/
theorem and_and_not_self (b nn : Byte) : (b &&& nn) &&& ~~~nn = 0 := by
  rw [BitVec.and_assoc, BitVec.and_not_self]
  exact BitVec.and_zero

/-- Settles O32: whatever byte is drawn, its masked value is written, and the draw is counted. -/
theorem randomByteStaysUnderItsMask : Obligations.RandomByteStaysUnderItsMask := by
  intro s x nn
  have hreg (q : Reg) := State.reg_setReg { s with rndIndex := s.rndIndex + 1 } x q (Config.rnd s.rndIndex &&& nn)
  have hx := (hreg x).trans (if_pos rfl)
  exact ⟨_, rfl, rfl, advanced_of_pc_eq rfl, hx, (congrArg (· &&& ~~~nn) hx).trans (and_and_not_self _ nn), rfl,
    fun q hq => (hreg q).trans (if_neg hq), fun _ => rfl⟩

/-! ### The index register (R200, R201) -/

theorem indexSum_toNat (i : Word) (x : Byte) : (indexSum i x).toNat = (i.toNat + x.toNat) % 65536 := by
  simp only [indexSum, BitVec.toNat_add, BitVec.toNat_setWidth]
  omega

/-- Settles O33: `ANNN` sets `I`; `FX1E` sets it to the sum modulo 2^16, then VF from the unreduced sum. -/
theorem indexLoadsAndAdds : Obligations.IndexLoadsAndAdds := by
  intro s x nnn
  refine ⟨⟨_, rfl, rfl, advanced_of_pc_eq rfl, address_toNat nnn, fun _ => rfl⟩,
    _, rfl, rfl, advanced_of_pc_eq rfl, indexSum_toNat _ _, fun r => ?_, fun _ => rfl⟩
  rw [State.reg_advance, State.reg_setFlag, apply_ite BitVec.toNat, addressFlag, flagByte_decide_toNat]
  rfl

/-! ### Transfers between registers and memory (R204, R205) -/

theorem exec_ldMemVx (x : Reg) (s : State) :
    exec (.ldMemVx x) s = .next { s with mem := storeBytes s.mem s.index 0 (regsUpTo s x) }.advance := rfl

/-- Register `k` of those `FX55` stores reads, at its own address, as it was. -/
theorem read_regs_stored {s : State} (hwf : Memory.wf s.mem = true) {x k : Reg} (hk : k ≤ x) :
    Memory.read (storeBytes s.mem s.index 0 (regsUpTo s x)) (dataAddr s.index k.val) = s.reg k := by
  have hlen := regsUpTo_length s x
  have hlt : k.val < (regsUpTo s x).length := hlen ▸ Nat.lt_succ_of_le hk
  rw [read_stored hwf s.index (by omega) hlt, regsUpTo_getElem]

/-- Settles O36: the registers' bytes are transferred to `I` and on, and a transfer changes no byte outside it. -/
theorem registersAreStored : Obligations.RegistersAreStored :=
  fun s x hwf => ⟨_, exec_ldMemVx x s, rfl, advanced_of_pc_eq rfl, fun _ => read_regs_stored hwf,
    memorySameOutside_of_stored hwf rfl (regsUpTo_length s x)⟩

theorem memorySame_of_mem_eq {s t : State} (h : t.mem = s.mem) : MemorySame s t := fun a => by rw [h]

theorem exec_ldVxMem (x : Reg) (s : State) : exec (.ldVxMem x) s = .next { s with v := regsLoaded s x }.advance := rfl

/-- Settles O37: the register file after `FX65` is the one loaded. -/
theorem registersAreLoaded : Obligations.RegistersAreLoaded := by
  intro s x
  refine ⟨_, exec_ldVxMem x s, rfl, advanced_of_pc_eq rfl, fun r => ?_, memorySame_of_mem_eq (State.advance_mem _)⟩
  rw [State.reg_advance, reg_regsLoaded]

/-- Settles O38: each register is loaded from the address it was stored at. -/
theorem storeThenLoadGivesTheRegistersBack : Obligations.StoreThenLoadGivesTheRegistersBack := by
  intro s t u w x hwf hstore hmem hindex hload r
  cases hstore
  cases hload
  have hreg := reg_regsLoaded u x r
  refine ⟨fun hr => ?_, fun hr => hreg.trans (if_neg hr)⟩
  rw [if_pos hr, hmem, hindex] at hreg
  exact hreg.trans (read_regs_stored hwf hr)

/-- Settles O39: registers 0 and 1 are stored at the two addresses that the next fetch reads. -/
theorem storedInstructionIsFetchedNext : Obligations.StoredInstructionIsFetchedNext := by
  intro s t x hwf hx haddr hstore
  cases hstore
  rw [← fetchWord_eq]
  have hnext (k : Nat) : dataAddr (s.pc + 2) k = dataAddr s.index k := by
    have hpc : (s.pc + 2).toNat = (s.pc.toNat + 2) % 65536 := BitVec.toNat_add s.pc 2
    simp only [dataAddr, Config.memorySize]
    omega
  have h0 : (0 : Reg) ≤ x := Fin.zero_le x
  have h1 : (1 : Reg) ≤ x := hx
  simp only [fetchWord, loadByte_eq, State.advance_mem, State.advance_pc, hnext]
  exact congrArg₂ (· ++ ·) (read_regs_stored hwf h0) (read_regs_stored hwf h1)

end Sys2Proof.Machine
end

section
/-! PROOFS, family other, 44_display: the clear (R220), the sprite draw (R221), two draws, and the glyphs of `FONT` (R45, R202). -/

namespace Sys2Proof.Machine

/-! ### Pixels (R33) -/

/-- A pixel is named modulo the screen's width and height. -/
theorem fbPixel_mod (f : Frame) (px py : Nat) : fbPixel f (px % 64) (py % 32) = fbPixel f px py := by
  simp only [fbPixel, Nat.mod_mod]

/-- Two framebuffers that agree at every pixel are equal. -/
theorem frame_ext {f g : Frame} (h : ∀ px py, px < 64 → py < 32 → fbPixel f px py = fbPixel g px py) : f = g := by
  apply Vector.ext
  intro py hy
  apply BitVec.eq_of_getLsbD_eq
  intro px hx
  have hpixel := h px py hx hy
  simpa only [fbPixel, Nat.mod_eq_of_lt hx, Nat.mod_eq_of_lt hy] using hpixel

/-- Settles O40: the framebuffer is the one with every pixel 0. -/
theorem clearScreenClearsEveryPixel : Obligations.ClearScreenClearsEveryPixel :=
  fun _ => ⟨_, rfl, rfl, advanced_of_pc_eq rfl, fun px py _ _ => fbPixel_fbClear px py, fun _ => rfl⟩

/-! ### What a draw lights and where it collides (R221) -/

theorem spriteRows_getElem (s : State) (n r : Nat) (h : r < (spriteRows s n).length) :
    (spriteRows s n)[r] = Memory.read s.mem (dataAddr s.index r) := by
  simp only [spriteRows, List.getElem_map, List.getElem_range, loadByte_eq]

/-- The rows that `DXYN` draws light exactly the pixels where a bit of the sprite falls. -/
theorem spriteLights_iff (s : State) (vx vy : Byte) (n px py : Nat) :
    spriteLights (spriteColumn vx) (spriteRow vy) (spriteRows s n) px py ↔
      SpriteBitAt s vx.toNat vy.toNat n (px % 64) (py % 32) := by
  simp only [spriteColumn, spriteRow]
  constructor
  · rintro ⟨r, hr, hy, c, hc, hx, hbit⟩
    rw [spriteRows_getElem] at hbit
    exact ⟨r, spriteRows_length s n ▸ hr, c, hc, by omega, by omega, hbit⟩
  · rintro ⟨r, hr, c, hc, hx, hy, hbit⟩
    refine ⟨r, (spriteRows_length s n).symm ▸ hr, by omega, c, hc, by omega, ?_⟩
    rwa [spriteRows_getElem]

/-- What `DXYN` makes of the framebuffer, and whether it noted a collision. -/
def drawnSprite (s : State) (x y : Reg) (n : Fin 16) : Frame × Bool :=
  drawRows (s.fb, false) (spriteColumn (s.reg x)) (spriteRow (s.reg y)) (spriteRows s n.val)

theorem exec_drw (x y : Reg) (n : Fin 16) (s : State) :
    exec (.drw x y n) s = .next ({ s with fb := (drawnSprite s x y n).1, dirty := true }.setFlag
      (collisionFlag (drawnSprite s x y n).2)).advance := rfl

theorem spriteRows_length_le (s : State) (n : Fin 16) : (spriteRows s n.val).length ≤ 32 := by
  rw [spriteRows_length]
  omega

theorem fbPixel_drawnSprite (s : State) (x y : Reg) (n : Fin 16) (px py : Nat) :
    (SpriteBitAt s (s.reg x).toNat (s.reg y).toNat n.val (px % 64) (py % 32) →
      fbPixel (drawnSprite s x y n).1 px py = !fbPixel s.fb px py) ∧
    (¬ SpriteBitAt s (s.reg x).toNat (s.reg y).toNat n.val (px % 64) (py % 32) →
      fbPixel (drawnSprite s x y n).1 px py = fbPixel s.fb px py) := by
  rw [← spriteLights_iff]
  exact fbPixel_drawRows _ _ _ _ (spriteRows_length_le s n) px py

/-- A draw notes a collision exactly when a bit of the sprite falls on a pixel that was set. -/
theorem collided_drawnSprite (s : State) (x y : Reg) (n : Fin 16) :
    (drawnSprite s x y n).2 = true ↔
      ∃ px py, SpriteBitAt s (s.reg x).toNat (s.reg y).toNat n.val px py ∧ fbPixel s.fb px py = true := by
  have hpixel (r c : Nat) : fbPixel s.fb (spriteColumn (s.reg x) + c) (spriteRow (s.reg y) + r) =
      fbPixel s.fb (((s.reg x).toNat + c) % 64) (((s.reg y).toNat + r) % 32) := by
    rw [← fbPixel_mod]
    simp only [spriteColumn, spriteRow, Nat.mod_add_mod]
  rw [drawnSprite, collided_drawRows _ _ _ _ (spriteRows_length_le s n)]
  simp only [Bool.false_eq_true, false_or, spriteRows_getElem, spriteRows_length, hpixel]
  constructor
  · rintro ⟨r, hr, c, hc, hbit, hset⟩
    exact ⟨_, _, ⟨r, hr, c, hc, rfl, rfl, hbit⟩, hset⟩
  · rintro ⟨px, py, ⟨r, hr, c, hc, rfl, rfl, hbit⟩, hset⟩
    exact ⟨r, hr, c, hc, hbit, hset⟩

/-- Settles O41: the framebuffer and the flag are the drawn sprite's, and VF is the one register written. -/
theorem drawTogglesExactlyTheSpritePixels : Obligations.DrawTogglesExactlyTheSpritePixels := by
  intro s x y n
  refine ⟨_, exec_drw x y n s, rfl, advanced_of_pc_eq rfl, fun px py hx hy => ?_, fun hcol => ?_, fun hcol => ?_,
    fun r hr => ?_, fun _ => rfl⟩
  · have hpixel := fbPixel_drawnSprite s x y n px py
    rwa [Nat.mod_eq_of_lt hx, Nat.mod_eq_of_lt hy] at hpixel
  · rw [State.reg_advance, State.reg_setFlag, if_pos rfl, (collided_drawnSprite s x y n).mpr hcol]
    rfl
  · rw [← collided_drawnSprite, Bool.not_eq_true] at hcol
    rw [State.reg_advance, State.reg_setFlag, if_pos rfl, hcol]
    rfl
  · exact (State.reg_setFlag _ r _).trans (if_neg hr)

/-- A draw on a clear screen notes no collision. -/
theorem exec_drw_flag_of_clear {x y : Reg} {n : Fin 16} {s t : State} (hclear : ∀ px py, fbPixel s.fb px py = false)
    (h : exec (.drw x y n) s = .next t) : t.reg 15 = 0 := by
  obtain ⟨_, hexec, -, -, -, -, hflag0, -⟩ := drawTogglesExactlyTheSpritePixels s x y n
  cases hexec.symm.trans h
  refine hflag0 ?_
  rintro ⟨px, py, -, hset⟩
  cases (hclear px py).symm.trans hset

/-! ### Two draws in a row (95_test_vectors.md S5) -/

theorem spriteBitAt_congr {s t : State} (hmem : t.mem = s.mem) (hindex : t.index = s.index) (x0 y0 n px py : Nat) :
    SpriteBitAt t x0 y0 n px py ↔ SpriteBitAt s x0 y0 n px py := by
  simp only [SpriteBitAt, hmem, hindex]

/-- A bit of a sprite falls on a pixel of the screen. -/
theorem spriteBitAt_lt {s : State} {x0 y0 n px py : Nat} (h : SpriteBitAt s x0 y0 n px py) : px < 64 ∧ py < 32 := by
  obtain ⟨r, -, c, -, rfl, rfl, -⟩ := h
  exact ⟨Nat.mod_lt _ (by decide), Nat.mod_lt _ (by decide)⟩

/-- Settles O42: the second draw lights the same pixels as the first, so it toggles each of them back, and finds those of a clear
screen set. -/
theorem drawingTwiceRestoresTheScreen : Obligations.DrawingTwiceRestoresTheScreen := by
  intro s t u x y n hx hy hst htu
  obtain ⟨_, hexec, hframe, -, hpixel, -, -, hreg, -⟩ := drawTogglesExactlyTheSpritePixels s x y n
  cases hexec.symm.trans hst
  obtain ⟨_, hexec', -, -, hpixel', hflag1', -⟩ := drawTogglesExactlyTheSpritePixels t x y n
  cases hexec'.symm.trans htu
  have hlit (px py : Nat) := spriteBitAt_congr (congrArg State.mem hframe) (congrArg State.index hframe)
    (s.reg x).toNat (s.reg y).toNat n.val px py
  simp only [hreg x hx, hreg y hy, hlit] at hpixel' hflag1'
  refine ⟨frame_ext fun px py hpx hpy => ?_, fun hclear ⟨px, py, hbit⟩ =>
    ⟨exec_drw_flag_of_clear hclear hst, hflag1' ⟨px, py, hbit, ?_⟩⟩⟩
  · obtain ⟨hon, hoff⟩ := hpixel px py hpx hpy
    obtain ⟨hon', hoff'⟩ := hpixel' px py hpx hpy
    by_cases hbit : SpriteBitAt s (s.reg x).toNat (s.reg y).toNat n.val px py
    · rw [hon' hbit, hon hbit, Bool.not_not]
    · rw [hoff' hbit, hoff hbit]
  · obtain ⟨hpx, hpy⟩ := spriteBitAt_lt hbit
    rw [(hpixel px py hpx hpy).1 hbit, hclear, Bool.not_false]

/-! ### Glyphs (R45, R202) -/

/-- On a clear screen a sprite of at most 32 rows shows its own bits: no two of them fall on one pixel. -/
theorem fbPixel_drawnSprite_of_clear {s : State} {x y : Reg} {n : Fin 16} (hclear : ∀ px py, fbPixel s.fb px py = false)
    {r c : Nat} (hr : r < n.val) (hc : c < 8) :
    fbPixel (drawnSprite s x y n).1 ((s.reg x).toNat + c) ((s.reg y).toNat + r) =
      (Memory.read s.mem (dataAddr s.index r)).getLsbD (7 - c) := by
  obtain ⟨hon, hoff⟩ := fbPixel_drawnSprite s x y n ((s.reg x).toNat + c) ((s.reg y).toNat + r)
  rw [hclear] at hon hoff
  cases hbit : (Memory.read s.mem (dataAddr s.index r)).getLsbD (7 - c) with
  | true => exact hon ⟨r, hr, c, hc, rfl, rfl, hbit⟩
  | false =>
    refine hoff ?_
    rintro ⟨r', hr', c', hc', hx, hy, hbit'⟩
    obtain rfl : r' = r := by omega
    obtain rfl : c' = c := by omega
    cases hbit.symm.trans hbit'

/-- A glyph's rows lie in the 80 bytes of `FONT` and wrap nowhere (R45, R202). -/
theorem dataAddr_glyphAddr (b : Byte) {r : Nat} (hr : r < 5) : dataAddr (glyphAddr b) r = 5 * (b.toNat % 16) + r := by
  simp only [dataAddr, glyphAddr_toNat, Config.memorySize]
  omega

/-- `FX29` sets `I` to the glyph's address and leaves what a draw reads beside it. -/
theorem exec_ldFVx_reads {x : Reg} {s t : State} (h : exec (.ldFVx x) s = .next t) :
    t.index = glyphAddr (s.reg x) ∧ t.mem = s.mem ∧ t.fb = s.fb ∧ ∀ r, t.reg r = s.reg r := by
  cases h
  exact ⟨rfl, rfl, rfl, fun _ => rfl⟩

/-- Settles O60: `I` is the glyph's address, so on the clear screen the sprite shows the bits of the glyph's bytes. -/
theorem glyphIsDrawnFromTheFontset : Obligations.GlyphIsDrawnFromTheFontset := by
  intro font s t u x a b hfont hclear ht hu
  obtain ⟨hindex, hmem, hfb, hreg⟩ := exec_ldFVx_reads ht
  rw [← hfb] at hclear
  refine ⟨exec_drw_flag_of_clear hclear hu, fun r c hr hc => ?_⟩
  cases (exec_drw a b 5 t).symm.trans hu
  have hglyph : 5 * ((s.reg x).toNat % 16) + r < 80 := by omega
  have hpixel := fbPixel_drawnSprite_of_clear (x := a) (y := b) (n := 5) hclear hr hc
  rwa [hreg, hreg, hmem, hindex, dataAddr_glyphAddr _ hr, hfont _ hglyph] at hpixel

end Sys2Proof.Machine
end

section
/-! PROOFS, family other, 45_keys_timers and 60_exceptions: the key tests (R241, R242), the timers and the cue (R245, R270, R271),
and the wait for a key (R246 to R248). -/

namespace Sys2Proof.Machine

/-- Settles O45: each test is `skipIf` on the level of the key that the low nibble names. -/
theorem keyTestsReadTheLevel : Obligations.KeyTestsReadTheLevel := by
  intro s x k hk
  obtain rfl : k = keyNamed (s.reg x) := Fin.ext hk
  exact ⟨skipsWhen_of_exec rfl Iff.rfl, skipsWhen_of_exec rfl (by rw [Bool.not_eq_true'])⟩

/-! ### TICK (R270, R271) -/

@[simp] theorem tick_st (s : State) : (tick s).st = countDown s.st := rfl

/-- TICK emits a cue exactly when the sound timer is 1. -/
theorem tick_audioCues (s : State) : (tick s).audioCues = s.audioCues + (if s.st.toNat = 1 then 1 else 0) := by
  have hone : s.st = 1 ↔ s.st.toNat = 1 := BitVec.toNat_inj.symm
  simp only [tick, hone]
  split <;> rfl

theorem step_of_tick {s : State} {rest : List Request} (h : s.requests = .tick :: rest) :
    step s = .next (tick { s with requests := rest }) :=
  step_of_request h

/-- Settles O53: a step that serves TICK is `tick`, whatever the run mode. -/
theorem tickCountsTheTimersDown : Obligations.TickCountsTheTimersDown :=
  fun s _ h => ⟨_, step_of_tick h, rfl, countDown_toNat s.dt, countDown_toNat s.st, tick_audioCues _⟩

/-- Settles O47: the write counts no cue, and the next TICK's is by the value written. -/
theorem soundTimerWriteEmitsNoCue : Obligations.SoundTimerWriteEmitsNoCue :=
  fun _ _ => ⟨_, rfl, rfl, advanced_of_pc_eq rfl, fun _ => rfl, tick_audioCues _⟩

/-! ### Runs of requests -/

theorem run_succ {s t : State} (h : step s = .next t) (n : Nat) : core.run (n + 1) s = core.run n t := by
  have hcore : core.step s = .next t := h
  simp only [Host.Core.run, hcore]

/-- Settles O54: by induction on the number of TICKs; the first one emits the cue if `ST` is 1, and the rest run from one less. -/
theorem exactlyOneCueByTheLastTick : Obligations.ExactlyOneCueByTheLastTick := by
  intro s k
  induction k generalizing s with
  | zero => exact ⟨_, rfl, rfl, rfl, by simp; omega⟩
  | succ k ih =>
    obtain ⟨t, hrun, hst, hdt, hcues⟩ := ih (tick s)
    rw [tick_st, countDown_toNat] at hst hcues
    rw [tick_dt, countDown_toNat] at hdt
    rw [tick_audioCues] at hcues
    refine ⟨t, (run_succ (step_of_tick rfl) k).trans hrun, by omega, by omega, ?_⟩
    rw [hcues]
    split_ifs <;> omega

/-! ### The wait for a key (R246, R247, R248) -/

theorem getElem_noEdges (k : Key) : noEdges[k.val] = false := Vector.getElem_replicate k.isLt

/-- Settles O48: the latch is cleared and the mode set; the program counter stays. -/
theorem keyWaitStartsWithoutAdvancing : Obligations.KeyWaitStartsWithoutAdvancing :=
  fun _ _ => ⟨_, rfl, rfl, getElem_noEdges, fun _ => rfl⟩

/-- A poll that finds a latched press writes the least latched key and runs on. -/
theorem keyWaitPoll_of_least {x : Reg} {s : State} {k : Key} (hk : s.kedge[k.val] = true)
    (hleast : ∀ j : Key, j < k → s.kedge[j.val] = false) :
    keyWaitPoll x s = ({ s with kedge := noEdges, mode := .running }.setReg x (BitVec.ofNat 8 k.val)).advance := by
  simp only [keyWaitPoll, leastEdge_some.mpr ⟨hk, hleast⟩]

theorem keyByte_toNat (k : Key) : (BitVec.ofNat 8 k.val).toNat = k.val :=
  (BitVec.toNat_ofNat k.val 8).trans (Nat.mod_eq_of_lt (by omega))

/-- Settles O49: the poll writes the least latched key, clears the latch, runs and advances. -/
theorem keyWaitEndsWithTheLeastLatchedKey : Obligations.KeyWaitEndsWithTheLeastLatchedKey := by
  intro s x k hr hm hk hleast
  rw [step_of_no_request hr, stepOperation_of_awaitingKey hm, keyWaitPoll_of_least hk hleast]
  refine ⟨_, rfl, rfl, advanced_of_pc_eq rfl, ?_, fun r hrx => ?_, getElem_noEdges, fun _ => rfl⟩
  · rw [State.reg_advance, State.reg_setReg, if_pos rfl, keyByte_toNat]
  · exact (State.reg_setReg _ x r _).trans (if_neg hrx)

/-- A requested STEP in a wait polls the latch. -/
theorem step_of_requested_poll {s : State} {x : Reg} {rest : List Request} (hr : s.requests = .step :: rest)
    (hm : s.mode = .awaitingKey x) : step s = .next (keyWaitPoll x { s with requests := rest }) := by
  rw [step_of_request hr]
  exact stepOperation_of_awaitingKey (s := { s with requests := rest }) hm

/-- A requested STEP in a wait with no press latched only leaves the queue. -/
theorem step_of_idle_wait {s : State} {x : Reg} {rest : List Request} (hr : s.requests = .step :: rest)
    (hm : s.mode = .awaitingKey x) (hk : ∀ k : Key, s.kedge[k.val] = false) : step s = .next { s with requests := rest } := by
  rw [step_of_requested_poll hr hm, keyWaitPoll_of_not_latched]
  exact fun ⟨k, h⟩ => Bool.false_ne_true ((hk k).symm.trans h)

/-- Settles O50: by induction on the operations; a STEP changes nothing, and a TICK takes one from each timer and keeps the wait. -/
theorem keyWaitHoldsWhileTimersTick : Obligations.KeyWaitHoldsWhileTimersTick := by
  intro s x ops hm hk hops
  induction ops generalizing s with
  | nil => exact ⟨_, rfl, rfl, rfl, rfl⟩
  | cons r ops ih =>
    obtain ⟨hr, hrest⟩ := List.forall_mem_cons.mp hops
    obtain rfl | rfl := hr
    · obtain ⟨t, hrun, hframe, hdt, hst⟩ := ih s hm hk hrest
      have hstep : step { s with requests := .step :: ops } = .next { s with requests := ops } :=
        step_of_idle_wait rfl hm hk
      refine ⟨t, (run_succ hstep ops.length).trans hrun, hframe, ?_, ?_⟩
      · simpa using hdt
      · simpa using hst
    · obtain ⟨t, hrun, hframe, hdt, hst⟩ := ih (tick s) hm hk hrest
      rw [tick_dt, countDown_toNat] at hdt
      rw [tick_st, countDown_toNat] at hst
      refine ⟨t, (run_succ (step_of_tick rfl) ops.length).trans hrun, hframe, ?_, ?_⟩
      · rw [hdt, List.count_cons_self, Nat.sub_sub, Nat.add_comm]
      · rw [hst, List.count_cons_self, Nat.sub_sub, Nat.add_comm]

/-- The release of a key that was up before its press puts the levels back. -/
theorem press_release_key {s : State} {k : Key} (hup : s.key[k.val] = false) :
    (setKey k false (setKey k true s)).key = s.key := by
  apply Vector.ext
  intro j hj
  have hrelease := setKey_key k ⟨j, hj⟩ false (setKey k true s)
  rw [setKey_key k ⟨j, hj⟩ true s] at hrelease
  by_cases hjk : ⟨j, hj⟩ = k
  · subst hjk
    exact hrelease.trans ((if_pos rfl).trans hup.symm)
  · rwa [if_neg hjk, if_neg hjk] at hrelease

/-- A press and a release of a key that was up latch that key, with none latched before no other. -/
theorem press_release_kedge {s : State} {k : Key} (hup : s.key[k.val] = false) (hk : ∀ j : Key, s.kedge[j.val] = false)
    (j : Key) : (setKey k false (setKey k true s)).kedge[j.val] = decide (j = k) := by
  have hrelease : ¬ (j = k ∧ false = true ∧ (setKey k true s).key[j.val] = false) := by simp
  rw [setKey_kedge, if_neg hrelease, setKey_kedge, hk]
  by_cases hjk : j = k
  · subst hjk
    simp [hup]
  · simp [hjk]

/-- Settles O51: the press latches its key alone, the release keeps the latch and puts the level back, and the poll finds it. -/
theorem shortPressEndsTheKeyWait : Obligations.ShortPressEndsTheKeyWait := by
  intro s x k hm hk hup
  have hpress : step { s with requests := [.key k true, .key k false, .step] } =
      .next (setKey k true { s with requests := [.key k false, .step] }) := step_of_key rfl
  have hrelease : step (setKey k true { s with requests := [.key k false, .step] }) =
      .next (setKey k false (setKey k true { s with requests := [.step] })) := step_of_key rfl
  have hpoll : step (setKey k false (setKey k true { s with requests := [.step] })) =
      .next (keyWaitPoll x (setKey k false (setKey k true { s with requests := [] }))) :=
    step_of_requested_poll rfl hm
  have hedge := press_release_kedge (s := { s with requests := [] }) hup hk
  rw [run_succ hpress, run_succ hrelease, run_succ hpoll, keyWaitPoll_of_least ((hedge k).trans (by simp))
    fun j hj => (hedge j).trans (by simp [hj.ne])]
  refine ⟨_, rfl, rfl, ?_, advanced_of_pc_eq rfl, press_release_key (s := { s with requests := [] }) hup⟩
  rw [State.reg_advance, State.reg_setReg, if_pos rfl, keyByte_toNat]

end Sys2Proof.Machine
end

section
/-! PROOFS, family other, 70_reset_and_hazards: what RESET sets (R44, R290), what LOAD writes (R291), the first STEP after them
(R292), and the outputs (R36, R37, R121). -/

namespace Sys2Proof.Machine

/-! ### RESET (R44, R290) -/

/-- A transfer to address 0 puts byte `k` at address `k`. -/
theorem dataAddr_zero {k : Nat} (hk : k < 4096) : dataAddr 0 k = k := by
  have hzero : (0 : Word).toNat = 0 := rfl
  rw [dataAddr, hzero, Nat.zero_add]
  exact Nat.mod_eq_of_lt hk

theorem read_resetMemory_font (font : Vector Byte 80) {a : Nat} (ha : a < 80) :
    Memory.read (resetMemory font) a = font[a] := by
  have hread := read_stored (m := []) rfl 0 (xs := font.toList) (by simp) (k := a) (by simpa using ha)
  rwa [dataAddr_zero (by omega), Vector.getElem_toList] at hread

theorem read_resetMemory_zero (font : Vector Byte 80) {a : Nat} (ha : 80 ≤ a) (ha' : a < 4096) :
    Memory.read (resetMemory font) a = 0 := by
  have houtside : ∀ j < font.toList.length, a % 4096 ≠ dataAddr 0 (0 + j) := by
    intro j hj
    rw [Vector.length_toList] at hj
    rw [Nat.zero_add, dataAddr_zero (by omega)]
    omega
  have hunlisted : ¬ a % 4096 < 80 := by omega
  rw [resetMemory, read_storeBytes_outside rfl 0 0 font.toList a houtside]
  exact dif_neg hunlisted

/-- RESET from any state sets every element to its reset value. -/
theorem resetWith_holdsResetValues (font : Vector Byte 80) (s : State) : HoldsResetValues font (resetWith font s) :=
  ⟨fun _ => read_resetMemory_font font, fun _ => read_resetMemory_zero font,
    fun r => (resetWith_reg font s r).trans (State.reset_reg r), rfl, rfl, fun _ hj => Vector.getElem_replicate hj, rfl, rfl, rfl,
    fun k => ⟨Vector.getElem_replicate k.isLt, Vector.getElem_replicate k.isLt⟩, fbPixel_fbClear, rfl, rfl, rfl, rfl, rfl⟩

/-- Settles O56: RESET, and so creation, holds the reset values, and RESET takes the kept fields from the state. -/
theorem resetSetsEveryElement : Obligations.ResetSetsEveryElement :=
  ⟨fun s _ hr => ⟨_, step_of_reset hr, resetWith_holdsResetValues s.font _, rfl, rfl, rfl⟩,
    fun font => resetWith_holdsResetValues font _, State.created_default⟩

/-! ### LOAD (R291) -/

theorem loadProgram_of_fits {bytes : List Byte} (s : State) (h : bytes.length ≤ 3584) :
    loadProgram bytes s = { s with mem := storeBytes s.mem Config.programBase 0 bytes, loadErr := false } :=
  if_neg (Nat.not_lt.mpr h)

theorem loadProgram_of_too_large {bytes : List Byte} (s : State) (h : 3584 < bytes.length) :
    loadProgram bytes s = { s with loadErr := true } :=
  if_pos h

theorem step_of_load {s : State} {rest : List Request} {bytes : List Byte} (h : s.requests = .load bytes :: rest) :
    step s = .next (loadProgram bytes { s with requests := rest }) :=
  step_of_request h

/-- The 3584 bytes from 0x200 on are the rest of memory, so no program's address wraps. -/
theorem dataAddr_programBase {j : Nat} (hj : j < 3584) : dataAddr Config.programBase j = 0x200 + j := by
  have hbase : Config.programBase.toNat = 0x200 := rfl
  rw [dataAddr, hbase]
  exact Nat.mod_eq_of_lt (by simp only [Config.memorySize]; omega)

/-- Settles O57: an accepted program is a transfer to 0x200, and a rejected one only sets `load_err`. -/
theorem loadWritesTheProgramOrRejectsIt : Obligations.LoadWritesTheProgramOrRejectsIt := by
  intro s rest bytes hwf hr
  rw [step_of_load hr]
  refine ⟨fun hfits => ?_, fun hlarge => by rw [loadProgram_of_too_large _ hlarge]⟩
  rw [loadProgram_of_fits _ hfits]
  refine ⟨_, rfl, rfl, fun j hj => ?_, fun a ha ha' => ?_⟩
  · rw [← dataAddr_programBase (by omega)]
    exact read_stored hwf Config.programBase (by omega) hj
  · refine read_storeBytes_outside hwf _ _ _ _ fun j hj => ?_
    rw [Nat.zero_add, dataAddr_programBase (by omega)]
    omega

/-- Settles O58: LOAD keeps the created core running at 0x200, and the two bytes there are the program's first two. -/
theorem loadedProgramStartsAtItsFirstWord : Obligations.LoadedProgramStartsAtItsFirstWord := by
  intro font hi lo bytes i hlen hd
  obtain ⟨hload, -⟩ := loadWritesTheProgramOrRejectsIt
    { State.created font with requests := [.load (hi :: lo :: bytes)] } [] (hi :: lo :: bytes) (resetMemory_wf font) rfl
  obtain ⟨t, hstep, hframe, hread, -⟩ := hload (by simp only [List.length_cons]; omega)
  have hpc : t.pc = 0x200 := congrArg State.pc hframe
  have hfetching : Fetching t := ⟨congrArg State.requests hframe, congrArg State.mode hframe⟩
  have hword : wordAtPc t = hi ++ lo := by
    rw [wordAtPc, hpc]
    exact congrArg₂ (· ++ ·) (hread 0 (by simp)) (hread 1 (by simp))
  exact ⟨t, hstep, hpc, step_of_decode_ok hfetching (hword ▸ hd)⟩

/-! ### Outputs (R36, R37, R121) -/

/-- Settles O59: each port shows its field, and LOAD's result tells whether the program was too large. -/
theorem outputPortsGiveModeFaultAndLoadResult : Obligations.OutputPortsGiveModeFaultAndLoadResult := by
  refine ⟨fun s hm => ?_, fun s x hm => ⟨?_, BitVec.ofFin x, ?_, rfl⟩, fun s hm => ?_, fun s hf => ?_, fun _ => rfl,
    fun s rest bytes hr => ⟨_, step_of_load hr, ?_⟩⟩
  · simp [modePort, hm]
  · simp [modePort, hm]
  · simp only [modeRegPort, hm]
  · simp [modePort, hm]
  · simp [faultPort, hf, FaultRecord.clear, faultNumber]
  · simp [loadErrPort, Config.maxProgram]

end Sys2Proof.Machine
end
